-- ==== Sys2Proof/Word.lean ====
section
/-! DEFINITION. The bit vectors of FXMUX (00_scope.md rule R9). -/

namespace Sys2Proof

/-- A register, an operand, a result, a command word: 32 bits (rule R9). -/
abbrev Word := BitVec 32

/-- A byte of the frame buffer, a client port number (rules R9, R31). -/
abbrev Byte := BitVec 8

/-- A slot size, a slot index, a buffer offset, an RDO offset or rollover: 16 bits unsigned (rule R9). -/
abbrev Half := BitVec 16

/-- The accumulated sum of a mean accumulator: 64 bits signed (rule R9). -/
abbrev DWord := BitVec 64

end Sys2Proof
end

