-- ==== Sys2Proof/Config.lean ====
section
/-! DEFINITION. The implementation parameters of FXMUX (00_scope.md rule R8). The spec gives none of them
a value; every statement of this package is about every legal configuration. FXMUX has no undefined
result, so there is no opaque free value here: what the outside world supplies is input, and stands in
State. -/

namespace Sys2Proof

/-- The parameters of rule R8, fixed for one implementation. -/
structure Config where
  /-- `MUX_MAX_SLOTS`: capacity of the slot table. -/
  muxMaxSlots : Nat
  /-- `FB_BYTES`: size of the frame buffer in bytes. -/
  fbBytes : Nat
  /-- `MEAN_COUNT`: number of running-mean accumulators. -/
  meanCount : Nat
  /-- `RDO_COUNT`: number of RDO engines. -/
  rdoCount : Nat
  /-- `EXT_PORTS`: number of external client ports. -/
  extPorts : Nat
  /-- `FXMUX_BASE`: bus address of the block's window. -/
  fxmuxBase : Nat
  deriving DecidableEq, Repr

/-- The legal ranges of rule R8. -/
abbrev Config.Legal (c : Config) : Prop :=
  (1 ≤ c.muxMaxSlots ∧ c.muxMaxSlots ≤ 32) ∧ (1 ≤ c.fbBytes ∧ c.fbBytes ≤ 4096) ∧
  (1 ≤ c.meanCount ∧ c.meanCount ≤ 8) ∧ (1 ≤ c.rdoCount ∧ c.rdoCount ≤ 16) ∧
  c.extPorts ≤ 254 ∧ c.fxmuxBase % 0x2000 = 0

/-- The example configuration of rule R8, the one the test vectors of 95_test_vectors.md use. It is not
normative; State.reset takes it because one plain state must name some configuration.
DESIGN CHOICE, unsafe (log 1). -/
def Config.example : Config where
  muxMaxSlots := 4
  fbBytes := 64
  meanCount := 2
  rdoCount := 1
  extPorts := 2
  fxmuxBase := 0x40000000

end Sys2Proof
end

