-- ==== Sys2Proof/Syntax.lean ====
section
/-! DEFINITION. The commands of FXMUX: one constructor per row of spec/opcode_table.json (30_encoding.md
rule R86), carrying the command-word fields that row takes (rule R88). Data operands are in OPA and OPB
and are no part of a command. -/

namespace Sys2Proof

/-- A fixed-point format as the command word carries it: FP = precision bits `P`, FI = integer bits `I`
(rules R80, R82). -/
structure Fmt where
  fp : BitVec 5
  fi : BitVec 5
  deriving DecidableEq, Repr

/-- The 22 commands of rule R86. `f` is the format (FP, FI), `sel` the SEL field. -/
inductive Instr where
  | fxpInit
  | fxpF2q (f : Fmt)
  | fxpQ2f (f : Fmt)
  | fxpI2q (f : Fmt)
  | fxpQ2i (f : Fmt)
  | fxpAdd
  | fxpSub
  | fxpMul (f : Fmt)
  | fxpDiv (f : Fmt)
  | fxpOne (f : Fmt)
  | meanInit (f : Fmt) (sel : BitVec 8)
  | meanAdd (sel : BitVec 8)
  | meanReset (sel : BitVec 8)
  | meanCalc (sel : BitVec 8)
  | muxInit
  | muxAdd
  | muxSend
  | muxRecv
  | rdoInit (sel : BitVec 8)
  | rdoAdvance (sel : BitVec 8)
  | rdoGet (sel : BitVec 8)
  | rdoEnable (sel : BitVec 8)
  deriving DecidableEq, Repr

end Sys2Proof
end

