-- ==== Sys2Proof/WellFormed.lean ====
section
/-! DEFINITION. What makes a command well formed for a configuration: the two checks of rule R89 that a
word spelling a command can still fail, the format (rule R82) and the instance number (rule R83). Every
combination of the fields of an Instr has a word (rule R86), so nothing else is checked here. -/

namespace Sys2Proof

/-- A format is legal when `P + I + 1 <= 32`, that is `FP + FI <= 31` (rule R82). -/
abbrev Fmt.Legal (f : Fmt) : Prop := f.fp.toNat + f.fi.toNat ≤ 31

/-- The check of rule R82, for the commands that take a format. -/
abbrev Instr.formatOk (i : Instr) : Prop :=
  match i with
  | .fxpF2q f | .fxpQ2f f | .fxpI2q f | .fxpQ2i f | .fxpMul f | .fxpDiv f | .fxpOne f => f.Legal
  | .meanInit f _ => f.Legal
  | .fxpInit | .fxpAdd | .fxpSub | .muxInit | .muxAdd | .muxSend | .muxRecv => True
  | .meanAdd _ | .meanReset _ | .meanCalc _ => True
  | .rdoInit _ | .rdoAdvance _ | .rdoGet _ | .rdoEnable _ => True

/-- The check of rule R83, for the commands that take a SEL. -/
abbrev Instr.selectOk (c : Config) (i : Instr) : Prop :=
  match i with
  | .meanInit _ m | .meanAdd m | .meanReset m | .meanCalc m => m.toNat < c.meanCount
  | .rdoInit e | .rdoAdvance e | .rdoGet e | .rdoEnable e => e.toNat < c.rdoCount
  | .fxpF2q _ | .fxpQ2f _ | .fxpI2q _ | .fxpQ2i _ | .fxpMul _ | .fxpDiv _ | .fxpOne _ => True
  | .fxpInit | .fxpAdd | .fxpSub | .muxInit | .muxAdd | .muxSend | .muxRecv => True

/-- A command that decoding lets through to its rule (rule R89). -/
abbrev Instr.WellFormed (c : Config) (i : Instr) : Prop := i.formatOk ∧ i.selectOk c

end Sys2Proof
end

