-- ==== Sys2Proof/Decode.lean ====
section
/-! DEFINITION. The command word (30_encoding.md rule R80), the decoder of rule R89 and, after it, the
encoder. The decoder answers the command a word spells (rule R86) or the reason it spells none. The
checks of rule R89 that a word spelling a command can still fail, ILLEGAL_FORMAT and BAD_SELECT, are made
by the meanings, in the same order, because the second needs the configuration (log 14). -/

namespace Sys2Proof

/-- Why a word spells no command (rules R84, R87); each is ILLEGAL_COMMAND to the host. -/
inductive DecodeError where
  /-- OPC is none of the 22 values of rule R86. -/
  | reservedOpcode
  /-- RSV is not 0. -/
  | reservedField
  /-- FP or FI is not 0 in a command that takes no format. -/
  | formatNotTaken
  /-- SEL is not 0 in a command that takes no SEL. -/
  | selNotTaken
  deriving DecidableEq, Repr

/-- OPC, bits 31:26 (rule R80). -/
def fieldOpc (w : Word) : BitVec 6 := w.extractLsb' 26 6

/-- FP and FI, bits 25:21 and 20:16 (rule R80). -/
def fieldFmt (w : Word) : Fmt := ⟨w.extractLsb' 21 5, w.extractLsb' 16 5⟩

/-- SEL, bits 15:8 (rule R80). -/
def fieldSel (w : Word) : BitVec 8 := w.extractLsb' 8 8

/-- RSV, bits 7:0 (rule R80). -/
def fieldRsv (w : Word) : BitVec 8 := w.extractLsb' 0 8

/-- The row of rule R86 with this OPC, filled with the fields it takes. -/
def rowOf (opc : Nat) (f : Fmt) (sel : BitVec 8) : Option Instr :=
  match opc with
  | 0x01 => some .fxpInit
  | 0x02 => some (.fxpF2q f)
  | 0x03 => some (.fxpQ2f f)
  | 0x04 => some (.fxpI2q f)
  | 0x05 => some (.fxpQ2i f)
  | 0x06 => some .fxpAdd
  | 0x07 => some .fxpSub
  | 0x08 => some (.fxpMul f)
  | 0x09 => some (.fxpDiv f)
  | 0x0A => some (.fxpOne f)
  | 0x10 => some (.meanInit f sel)
  | 0x11 => some (.meanAdd sel)
  | 0x12 => some (.meanReset sel)
  | 0x13 => some (.meanCalc sel)
  | 0x20 => some .muxInit
  | 0x21 => some .muxAdd
  | 0x22 => some .muxSend
  | 0x23 => some .muxRecv
  | 0x28 => some (.rdoInit sel)
  | 0x29 => some (.rdoAdvance sel)
  | 0x2A => some (.rdoGet sel)
  | 0x2B => some (.rdoEnable sel)
  | _ => none

/-- The format a command carries, if its row takes one (rule R86, column "takes format"). -/
def Instr.format (i : Instr) : Option Fmt :=
  match i with
  | .fxpF2q f | .fxpQ2f f | .fxpI2q f | .fxpQ2i f | .fxpMul f | .fxpDiv f | .fxpOne f => some f
  | .meanInit f _ => some f
  | .fxpInit | .fxpAdd | .fxpSub | .muxInit | .muxAdd | .muxSend | .muxRecv => none
  | .meanAdd _ | .meanReset _ | .meanCalc _ => none
  | .rdoInit _ | .rdoAdvance _ | .rdoGet _ | .rdoEnable _ => none

/-- The SEL a command carries, if its row takes one (rule R86, column "takes SEL"). -/
def Instr.sel (i : Instr) : Option (BitVec 8) :=
  match i with
  | .meanInit _ m | .meanAdd m | .meanReset m | .meanCalc m => some m
  | .rdoInit e | .rdoAdvance e | .rdoGet e | .rdoEnable e => some e
  | .fxpF2q _ | .fxpQ2f _ | .fxpI2q _ | .fxpQ2i _ | .fxpMul _ | .fxpDiv _ | .fxpOne _ => none
  | .fxpInit | .fxpAdd | .fxpSub | .muxInit | .muxAdd | .muxSend | .muxRecv => none

/-- The decoder, total on any word (rule R89, its ILLEGAL_COMMAND checks in the order written there). -/
def decode (w : Word) : Except DecodeError Instr :=
  match rowOf (fieldOpc w).toNat (fieldFmt w) (fieldSel w) with
  | none => .error .reservedOpcode
  | some i =>
    if fieldRsv w ≠ 0#8 then .error .reservedField
    else if i.format = none ∧ fieldFmt w ≠ ⟨0#5, 0#5⟩ then .error .formatNotTaken
    else if i.sel = none ∧ fieldSel w ≠ 0#8 then .error .selNotTaken
    else .ok i

/-- The OPC of a command (rule R86). -/
def Instr.opcode (i : Instr) : BitVec 6 :=
  match i with
  | .fxpInit => 0x01#6
  | .fxpF2q _ => 0x02#6
  | .fxpQ2f _ => 0x03#6
  | .fxpI2q _ => 0x04#6
  | .fxpQ2i _ => 0x05#6
  | .fxpAdd => 0x06#6
  | .fxpSub => 0x07#6
  | .fxpMul _ => 0x08#6
  | .fxpDiv _ => 0x09#6
  | .fxpOne _ => 0x0A#6
  | .meanInit _ _ => 0x10#6
  | .meanAdd _ => 0x11#6
  | .meanReset _ => 0x12#6
  | .meanCalc _ => 0x13#6
  | .muxInit => 0x20#6
  | .muxAdd => 0x21#6
  | .muxSend => 0x22#6
  | .muxRecv => 0x23#6
  | .rdoInit _ => 0x28#6
  | .rdoAdvance _ => 0x29#6
  | .rdoGet _ => 0x2A#6
  | .rdoEnable _ => 0x2B#6

/-- The command word with these fields and RSV = 0 (rule R80). -/
def packFields (opc : BitVec 6) (f : Fmt) (sel : BitVec 8) : Word :=
  opc ++ f.fp ++ f.fi ++ sel ++ 0#8

/-- The word of a command; a field its row does not take is 0 (rules R80, R84). -/
def encode (i : Instr) : Word :=
  packFields i.opcode (i.format.getD ⟨0#5, 0#5⟩) (i.sel.getD 0#8)

/-- The command the decoder reads from `nbits` table bits `w` (every bit above them 0). A command word is
the 32-bit value written to CMD (rule R80), so the table's bit numbers are the word's. -/
def decodeTableWord (nbits w : Nat) : Option Instr :=
  (decode (BitVec.ofNat 32 (w % 2 ^ nbits))).toOption

end Sys2Proof
end

