-- ==== Sys2Proof/Machine/State.lean ====
section
/-! DEFINITION. The state of FXMUX (10_state.md rules R20 to R37), what enters and leaves the block, the
two kinds of stop of the model, and the state after reset. -/

namespace Sys2Proof.Machine

/-- The fields of STATUS (rule R25); every other bit of STATUS reads 0 and holds nothing. -/
structure Status where
  /-- CODE, bits 7:0: outcome of the most recent accepted command. -/
  code : BitVec 8
  /-- DEFAULTED, bit 8. -/
  defaulted : Bool
  /-- FCODE, bits 23:16: code of the first fault since reset. -/
  fcode : BitVec 8
  /-- FAULT, bit 31: sticky. -/
  fault : Bool
  deriving DecidableEq, Repr

/-- MUX_STATE (rule R29); the fourth value of its two bits "never occurs" and has no constructor. -/
inductive MuxState where
  | unconfigured
  | configured
  | built
  deriving DecidableEq, Repr

/-- A slot descriptor (rule R31). -/
structure Slot where
  inst : Word
  size : Half
  index : Half
  send : Byte
  recv : Byte
  deriving DecidableEq, Repr

/-- A running-mean accumulator (rule R28). -/
structure Mean where
  sum : DWord
  index : BitVec 32
  maxSize : BitVec 32
  prec : BitVec 5
  valid : Bool
  deriving DecidableEq, Repr

/-- An RDO engine (rule R34). -/
structure Rdo where
  offset : Half
  rollover : Half
  enabled : Bool
  valid : Bool
  deriving DecidableEq, Repr

/-- What the block takes next from outside: a host bus access (20_memory.md rules R61 to R64), or the
platform's reset (70_reset_and_hazards.md rule R240). Addresses are bus addresses; widths are in bits and
any width can be asked for, since the wrong ones fault (rules R62, R63). -/
inductive Event where
  /-- A host read of `width` bits at a bus address. -/
  | read (addr : Nat) (width : Nat)
  /-- A host write; an 8-bit write carries its byte in the low bits of `data` (log 12). -/
  | write (addr : Nat) (width : Nat) (data : Word)
  /-- The platform resets the block. -/
  | reset
  deriving DecidableEq, Repr

/-- A request the block issues to an external client (43_multiplexer.md rules R191, R192). -/
inductive ClientReq where
  /-- `SendReq(port, instance, size)`. -/
  | sendReq (port : Nat) (inst : Word) (size : Nat)
  /-- `RecvReq(port, instance, bytes)`. -/
  | recvReq (port : Nat) (inst : Word) (bytes : List Byte)
  deriving DecidableEq, Repr

/-- An answer of an external client (43_multiplexer.md rules R191, R192). -/
inductive ClientRsp where
  /-- `SendRsp(b[0 .. n-1])`. -/
  | sendRsp (bytes : List Byte)
  /-- `RecvAck`. -/
  | recvAck
  deriving DecidableEq, Repr

/-- What a command in progress waits for (43_multiplexer.md rule R193): the answer of the external client
of slot `i`, whose request has been issued. -/
inductive Wait where
  /-- MUX_SEND waits for the SendRsp of slot `i`. -/
  | sendRsp (i : Nat)
  /-- MUX_RECV waits for the RecvAck of slot `i`. -/
  | recvAck (i : Nat)
  deriving DecidableEq, Repr

/-- The state. The first fifteen fields below `cfg` are rule R20's list; `busy` is the command in progress
of rules R193 and R222; the last four are the model's own, the block's two inputs and two outputs. -/
structure State where
  /-- The implementation parameters (00_scope.md rule R8), which no step changes (log 2). -/
  cfg : Config
  /-- OPA; `none` is a clear written mark: "a value whose mark is clear has no value" (rule R22, log 3). -/
  opa : Option Word
  /-- OPB (rules R21, R22). -/
  opb : Option Word
  /-- RES (rules R22, R23). -/
  res : Option Word
  /-- RESH (rules R22, R23). -/
  resh : Option Word
  /-- STATUS (rule R25). -/
  status : Status
  /-- MUX_STATE (rule R29). -/
  muxState : MuxState
  /-- MUX_COUNT (rule R30), the 6 bits of rule R36. -/
  muxCount : BitVec 6
  /-- MUX_OFFSET (rule R30). -/
  muxOffset : Half
  /-- MUX_MAXBUF (rule R30). -/
  muxMaxbuf : Half
  /-- SLOT[0 .. MUX_MAX_SLOTS-1] (rule R31). -/
  slots : List Slot
  /-- MEAN[0 .. MEAN_COUNT-1] (rule R28). -/
  mean : List Mean
  /-- RDO[0 .. RDO_COUNT-1] (rule R34). -/
  rdo : List Rdo
  /-- FB: the written bytes, addresses strictly rising; an unlisted byte is unwritten and has no value
  (20_memory.md rule R60, 10_state.md rule R22). -/
  fb : List Host.Cell
  /-- The command in progress, if one waits for an external client (rules R193, R222; log 7). -/
  busy : Option Wait
  /-- Input: the events the block has still to take, in order (rule R71; log 4). -/
  bus : List Event
  /-- Output: the data the most recent access returned, `none` after one that returns none (log 5). -/
  reply : Option Word
  /-- Input: the answers the external clients have still to give, in order (rule R193; log 6). -/
  clients : List ClientRsp
  /-- Output: the requests issued to external clients so far, oldest first (log 8). -/
  requests : List ClientReq
  deriving DecidableEq, Repr

/-- The stops of the model that are not the machine's own. Every fault the spec describes is the sticky
STATUS.FAULT of 60_exceptions.md rule R214, after which the block goes on: it is a next state. -/
inductive Fault where
  /-- Raised by `step` when the next host access is addressed outside the block's window: "nothing of the
  host's address space outside the window is claimed" (20_memory.md rule R65). Safe: the block has no part
  in such an access, and nothing is said of it (log 10). -/
  | outsideWindow
  deriving DecidableEq, Repr

/-- Why a step has no meaning. -/
inductive Refusal where
  /-- Raised by an arm of `exec` for a command the model gives no meaning yet; no arm does. Safe. -/
  | notModelled (mnemonic : String)
  deriving DecidableEq, Repr

/-- An outcome of the machine. -/
abbrev Result := Host.Outcome State Fault Refusal

/-- STATUS after reset (rule R37). -/
def Status.zero : Status := ⟨0#8, false, 0#8, false⟩

/-- A slot descriptor after reset; also what an unregistered one holds (rules R31, R37). -/
def Slot.zero : Slot := ⟨0#32, 0#16, 0#16, 0#8, 0#8⟩

/-- A mean accumulator after reset (rule R37). -/
def Mean.zero : Mean := ⟨0#64, 0#32, 0#32, 0#5, false⟩

/-- An RDO engine after reset (rule R37). -/
def Rdo.zero : Rdo := ⟨0#16, 0#16, false, false⟩

/-- The state after reset of an implementation with parameters `c` (rules R37, R240): OPA, OPB, RES, RESH
and every FB byte unwritten, everything else 0, no access, answer or request yet. -/
def State.resetWith (c : Config) : State where
  cfg := c
  opa := none
  opb := none
  res := none
  resh := none
  status := Status.zero
  muxState := .unconfigured
  muxCount := 0#6
  muxOffset := 0#16
  muxMaxbuf := 0#16
  slots := List.replicate c.muxMaxSlots Slot.zero
  mean := List.replicate c.meanCount Mean.zero
  rdo := List.replicate c.rdoCount Rdo.zero
  fb := []
  busy := none
  bus := []
  reply := none
  clients := []
  requests := []

/-- The machine right after reset, in the example configuration of 00_scope.md rule R8 (log 1). -/
def State.reset : State := State.resetWith Config.example

end Sys2Proof.Machine
end

