-- ==== Sys2Proof/Machine/Flags.lean ====
section
/-! DEFINITION. The outcome codes (60_exceptions.md rule R212) and everything the block does with STATUS:
what a completed command writes (rule R211), what a fault writes (rule R214), and the word the host reads
(10_state.md rule R25). CODE and DEFAULTED are FXMUX's only condition flags. -/

namespace Sys2Proof.Machine

/-- The status outcomes of a completed command (rules R211, R212). -/
inductive StatusOutcome where
  | ok
  | tooManyProtocols
  | noMoreSpace
  deriving DecidableEq, Repr

/-- The fault codes (rule R212). -/
inductive FaultCode where
  | illegalCommand
  | illegalFormat
  | divisionByZero
  | invalidFloat
  | operandUnwritten
  | badSelect
  | notInitialised
  | reinit
  | badConfig
  | shortFrame
  | unboundHandler
  | illegalOperand
  | sizeMismatch
  | badAccess
  | unwrittenRead
  deriving DecidableEq, Repr

/-- The code of a status outcome (rule R212). -/
def StatusOutcome.byte : StatusOutcome → BitVec 8
  | .ok => 0x00#8
  | .tooManyProtocols => 0x01#8
  | .noMoreSpace => 0x02#8

/-- The code of a fault (rule R212). -/
def FaultCode.byte : FaultCode → BitVec 8
  | .illegalCommand => 0x10#8
  | .illegalFormat => 0x11#8
  | .divisionByZero => 0x12#8
  | .invalidFloat => 0x13#8
  | .operandUnwritten => 0x14#8
  | .badSelect => 0x15#8
  | .notInitialised => 0x16#8
  | .reinit => 0x17#8
  | .badConfig => 0x18#8
  | .shortFrame => 0x19#8
  | .unboundHandler => 0x1A#8
  | .illegalOperand => 0x1B#8
  | .sizeMismatch => 0x1C#8
  | .badAccess => 0x1D#8
  | .unwrittenRead => 0x1E#8

/-- A completed command's STATUS: its outcome and its DEFAULTED; the fault record stays (rule R211). -/
def Status.complete (st : Status) (o : StatusOutcome) (dflt : Bool) : Status :=
  { st with code := o.byte, defaulted := dflt }

/-- The fault record: only the first fault since reset writes FAULT and FCODE (rule R214). -/
def Status.record (st : Status) (c : FaultCode) : Status :=
  if st.fault then st else { st with fault := true, fcode := c.byte }

/-- A fault raised by a command: the fault record, CODE, and DEFAULTED cleared (rule R214). -/
def Status.commandFault (st : Status) (c : FaultCode) : Status :=
  { st.record c with code := c.byte, defaulted := false }

/-- One bit as a field of a word. -/
def flagBit (b : Bool) : BitVec 1 := if b then 1#1 else 0#1

/-- The word the host reads from STATUS (rule R25): FAULT in bit 31, FCODE in 23:16, DEFAULTED in bit 8,
CODE in 7:0, every other bit 0. -/
def Status.word (st : Status) : Word :=
  flagBit st.fault ++ 0#7 ++ st.fcode ++ 0#7 ++ flagBit st.defaulted ++ st.code

end Sys2Proof.Machine
end

