-- ==== Sys2Proof/Machine/Ops.lean ====
section
/-! DEFINITION. The named operations over the frame buffer, the registers and the tables; raising a fault,
the one way FXMUX takes an exception (60_exceptions.md rule R214), and reset, the one way back from it
(rule R215). -/

namespace Sys2Proof.Machine

/-- Frame-buffer contents: the written bytes with their addresses. An unlisted byte is unwritten
(10_state.md rule R22). -/
abbrev Memory := List Host.Cell

/-- The canonical form: addresses strictly rising. (An unlisted byte has no value, so no entry can equal
what an unlisted address reads as.) -/
abbrev Memory.wf (m : Memory) : Prop := m.Pairwise (fun p q => p.1 < q.1)

/-- Byte `a`, or `none` when its written mark is clear (rule R22). -/
def Memory.read (m : Memory) (a : Nat) : Option Byte :=
  match m with
  | [] => none
  | (k, v) :: rest => if k = a then some v else Memory.read rest a

/-- Write byte `a` and set its written mark (rule R22). -/
def Memory.write (m : Memory) (a : Nat) (b : Byte) : Memory :=
  match m with
  | [] => [(a, b)]
  | (k, v) :: rest =>
    if a < k then (a, b) :: (k, v) :: rest
    else if a = k then (a, b) :: rest
    else (k, v) :: Memory.write rest a b

/-- Write consecutive bytes from `a` on, in order (43_multiplexer.md rule R191). -/
def Memory.writeBytes (m : Memory) (a : Nat) (bs : List Byte) : Memory :=
  match bs with
  | [] => m
  | b :: rest => Memory.writeBytes (Memory.write m a b) (a + 1) rest

/-- The `n` bytes from `a` on, or `none` if any of them is unwritten (43_multiplexer.md rule R192). -/
def Memory.readBytes (m : Memory) (a : Nat) (n : Nat) : Option (List Byte) :=
  match n with
  | 0 => some []
  | n + 1 =>
    match Memory.read m a, Memory.readBytes m (a + 1) n with
    | some b, some bs => some (b :: bs)
    | _, _ => none

/-- The host writes OPA (20_memory.md rule R69). -/
def State.setOpa (s : State) (v : Word) : State := { s with opa := some v }

/-- The host writes OPB (20_memory.md rule R69). -/
def State.setOpb (s : State) (v : Word) : State := { s with opb := some v }

/-- A command writes RES and its written mark (10_state.md rules R22, R23). -/
def State.setRes (s : State) (v : Word) : State := { s with res := some v }

/-- A command writes RESH and its written mark (10_state.md rules R22, R23). -/
def State.setResh (s : State) (v : Word) : State := { s with resh := some v }

/-- Write STATUS. -/
def State.setStatus (s : State) (st : Status) : State := { s with status := st }

/-- Replace the frame buffer's contents. -/
def State.setFb (s : State) (m : Memory) : State := { s with fb := m }

/-- SLOT[i]; beyond the table, which no command reaches, an unregistered descriptor (10_state.md R31). -/
def State.slotAt (s : State) (i : Nat) : Slot := s.slots.getD i Slot.zero

/-- MEAN[m] (10_state.md rule R28). -/
def State.meanAt (s : State) (m : Nat) : Mean := s.mean.getD m Mean.zero

/-- Write MEAN[m]. -/
def State.setMean (s : State) (m : Nat) (v : Mean) : State := { s with mean := s.mean.set m v }

/-- RDO[e] (10_state.md rule R34). -/
def State.rdoAt (s : State) (e : Nat) : Rdo := s.rdo.getD e Rdo.zero

/-- Write RDO[e]. -/
def State.setRdo (s : State) (e : Nat) (v : Rdo) : State := { s with rdo := s.rdo.set e v }

/-- The table MUX_INIT creates, empty with maximum size `mb` (43_multiplexer.md rule R181). -/
def State.createTable (s : State) (mb : Half) : State :=
  { s with muxState := .configured, muxCount := 0#6, muxOffset := 0#16, muxMaxbuf := mb }

/-- Append a descriptor to the slot table (43_multiplexer.md rules R183, R184). -/
def State.appendSlot (s : State) (d : Slot) : State :=
  { s with
    slots := s.slots.set s.muxCount.toNat d
    muxOffset := s.muxOffset + d.size
    muxCount := s.muxCount + 1#6
    muxState := .built }

/-- A command starts or stops waiting for an external client (43_multiplexer.md rule R193). -/
def State.setBusy (s : State) (w : Option Wait) : State := { s with busy := w }

/-- Issue a request to an external client (43_multiplexer.md rules R191, R192). -/
def State.issue (s : State) (q : ClientReq) : State := { s with requests := s.requests ++ [q] }

/-- The answers still to come, once one has been taken. -/
def State.setClients (s : State) (rest : List ClientRsp) : State := { s with clients := rest }

/-- The block takes the first event: the others stay, and no data has been returned for it yet. -/
def State.takeEvent (s : State) (rest : List Event) : State := { s with bus := rest, reply := none }

/-- Data returned to the host by a read. -/
def State.setReply (s : State) (v : Word) : State := { s with reply := some v }

/-- A command completes with a status outcome (60_exceptions.md rule R211). -/
def complete (o : StatusOutcome) (dflt : Bool) (s : State) : Result :=
  .next (s.setStatus (s.status.complete o dflt))

/-- A command raises fault `c` and stops there; what it did before stays (60_exceptions.md rule R214). -/
def raise (c : FaultCode) (s : State) : Result :=
  .next (s.setStatus (s.status.commandFault c))

/-- A host bus access raises fault `c`: only the fault record changes (60_exceptions.md rule R214). -/
def State.busFault (s : State) (c : FaultCode) : State := s.setStatus (s.status.record c)

/-- The platform resets the block (70_reset_and_hazards.md rule R240): every piece of state takes its reset
value. What the outside world holds (the events and answers to come, the requests it has received) is no
state of the block and stays (log 9). -/
def State.platformReset (s : State) : State :=
  { State.resetWith s.cfg with bus := s.bus, clients := s.clients, requests := s.requests }

/-- How a run of dispatches goes (43_multiplexer.md rules R193, R194). -/
inductive Walk where
  /-- Every dispatch completed. -/
  | done (s : State)
  /-- A dispatch raised a fault; the effects before it stay (rule R194). -/
  | stop (c : FaultCode) (s : State)
  /-- A dispatch waits for its external client (rule R193). -/
  | wait (w : Wait) (s : State)
  deriving Repr

end Sys2Proof.Machine
end

