-- ==== Sys2Proof/Machine/Operands.lean ====
section
/-! DEFINITION. The numeric primitives of 00_scope.md rule R10, the operands of 30_encoding.md rule R88,
and the checks commands make before they act, each as an operation that either raises its fault or goes
on (60_exceptions.md rule R216 gives their order; each meaning writes it out). -/

namespace Sys2Proof.Machine

/-- `sat32` (rule R10): clamp to the signed 32-bit range. -/
def sat32 (v : Int) : Int :=
  if v < -2 ^ 31 then -2 ^ 31 else if v > 2 ^ 31 - 1 then 2 ^ 31 - 1 else v

/-- `u32` (rule R10): the encoding of an integer in 32 bits. -/
def u32 (v : Int) : Word := BitVec.ofInt 32 v

/-- `s32` (rule R10). -/
def s32 (w : Word) : Int := w.toInt

/-- `floor_div(a, 2^n)` (rule R10). -/
def floorDivPow (a : Int) (n : Nat) : Int := a.fdiv (2 ^ n)

/-- `trunc_div(a, b)` for `b != 0` (rule R10). -/
def truncDiv (a b : Int) : Int := a.tdiv b

/-- The packed OPB of MUX_ADD (rule R88): RECV = OPB[31:24], SEND = OPB[23:16], SIZE = OPB[15:0]. -/
def opbRecv (w : Word) : Byte := w.extractLsb' 24 8

/-- SEND = OPB[23:16] (rule R88). -/
def opbSend (w : Word) : Byte := w.extractLsb' 16 8

/-- SIZE = OPB[15:0] (rule R88). -/
def opbSize (w : Word) : Half := w.extractLsb' 0 16

/-- Read OPA, or raise OPERAND_UNWRITTEN (10_state.md rule R22). -/
def withA (s : State) (k : Word → Result) : Result :=
  match s.opa with
  | some a => k a
  | none => raise .operandUnwritten s

/-- Read OPB, or raise OPERAND_UNWRITTEN (10_state.md rule R22). -/
def withB (s : State) (k : Word → Result) : Result :=
  match s.opb with
  | some b => k b
  | none => raise .operandUnwritten s

/-- The format check (30_encoding.md rules R82, R89). -/
def needFormat (f : Fmt) (s : State) (k : Result) : Result :=
  if f.Legal then k else raise .illegalFormat s

/-- The accumulator number check (30_encoding.md rules R83, R89). -/
def needMean (m : BitVec 8) (s : State) (k : Result) : Result :=
  if m.toNat < s.cfg.meanCount then k else raise .badSelect s

/-- The engine number check (30_encoding.md rules R83, R89). -/
def needRdo (e : BitVec 8) (s : State) (k : Result) : Result :=
  if e.toNat < s.cfg.rdoCount then k else raise .badSelect s

/-- MEAN[m] must have been initialised (41_mean.md rule R140). -/
def needMeanValid (m : BitVec 8) (s : State) (k : Result) : Result :=
  if (s.meanAt m.toNat).valid then k else raise .notInitialised s

/-- RDO[e] must have been initialised (42_rdo_client.md rule R160). -/
def needRdoValid (e : BitVec 8) (s : State) (k : Result) : Result :=
  if (s.rdoAt e.toNat).valid then k else raise .notInitialised s

/-- The slot table must have been created (43_multiplexer.md rule R180). -/
def needTable (s : State) (k : Result) : Result :=
  if s.muxState = .unconfigured then raise .notInitialised s else k

end Sys2Proof.Machine
end

