-- ==== Sys2Proof/Machine/Float.lean ====
section
/-! DEFINITION. IEEE 754 binary32, as far as FXMUX uses it (00_scope.md rules R9, R10; 40_fixed_point.md
rules R102, R103). The spec takes the format from general knowledge (93_implementation_defined.md G1);
its bit layout here is PRESUMED from the same standard, and unsafe (log 13). -/

namespace Sys2Proof.Machine

/-- The value of a binary32 pattern. Every finite one is a whole multiple of `2^-149`: `finite n` is
`n * 2^-149`, exactly (rule R102: "an exact rational, or +-inf, or NaN"). -/
inductive F32 where
  | nan
  | inf (neg : Bool)
  | finite (n : Int)
  deriving DecidableEq, Repr

/-- The weight of 1 in `F32.finite`: `1 = 2^149 * 2^-149`. -/
def f32One : Int := 2 ^ 149

/-- Decode a binary32 pattern: sign bit 31, exponent 30:23 with bias 127, fraction 22:0; exponent 255 is an
infinity or a NaN, exponent 0 a zero or a subnormal (log 13). -/
def f32Decode (w : Word) : F32 :=
  let neg := w.msb
  let e := (w.extractLsb' 23 8).toNat
  let frac := (w.extractLsb' 0 23).toNat
  if e = 255 then (if frac = 0 then .inf neg else .nan)
  else
    let mag : Nat := if e = 0 then frac else (2 ^ 23 + frac) * 2 ^ (e - 1)
    .finite (if neg then -(mag : Int) else mag)

/-- Clamp a float to the whole numbers `lo .. hi`, in multiples of `2^-149`, before scaling (rule R102);
a NaN has no place in the order. -/
def f32Clamp (lo hi : Int) (f : F32) : Option Int :=
  match f with
  | .nan => none
  | .inf true => some (lo * f32One)
  | .inf false => some (hi * f32One)
  | .finite n =>
    some (if n > hi * f32One then hi * f32One else if n < lo * f32One then lo * f32One else n)

/-- The Q number of a float in the format (rule R102): clamp, scale by `2^P`, truncate toward zero. -/
def floatToQ (f : Fmt) (w : Word) : Option Int :=
  match f32Clamp (-2 ^ f.fi.toNat) (2 ^ f.fi.toNat - 1) (f32Decode w) with
  | none => none
  | some n => some (sat32 (truncDiv (n * 2 ^ f.fp.toNat) f32One))

/-- Round `m / 2^sh` to the nearest integer, a tie to the even one. -/
def roundEven (m sh : Nat) : Nat :=
  let q := m / 2 ^ sh
  let r := m % 2 ^ sh
  if 2 * r > 2 ^ sh ∨ (2 * r = 2 ^ sh ∧ q % 2 = 1) then q + 1 else q

/-- `rne32(a / 2^p)` (rule R10), for the quotients FXP_Q2F forms (`|a| <= 2^31`, `p <= 31`), all of which
are 0 or round to a normal number (rule R103). The 24-bit significand of a magnitude `m` with leading bit
`k` is `m * 2^(23-k)`, or `m` rounded at bit `k - 23`; adding it, less its hidden bit, to the exponent
field carries a significand that rounds up to `2^24` into the exponent. -/
def rne32 (a : Int) (p : Nat) : Word :=
  let m := a.natAbs
  if m = 0 then 0#32
  else
    let k := Nat.log2 m
    let sig := if k ≤ 23 then m * 2 ^ (23 - k) else roundEven m (k - 23)
    let mag := (k + 127 - p) * 2 ^ 23 + (sig - 2 ^ 23)
    BitVec.ofNat 32 (if a < 0 then 2 ^ 31 + mag else mag)

end Sys2Proof.Machine
end

