-- ==== Sys2Proof/Machine/Fxp.lean ====
section
/-! DEFINITION. The meanings of the fixed-point commands (40_fixed_point.md). The unit is stateless: a
command reads its operands and format and writes RES and STATUS (rule R100). -/

namespace Sys2Proof.Machine

/-- What every FXP command does when it completes (rule R100): write RES, CODE = OK, and DEFAULTED. -/
def fxpResult (v : Word) (dflt : Bool) (s : State) : Result := complete .ok dflt (s.setRes v)

/-- The format word `(P << 21) | (I << 16)` (rule R101). -/
def formatWord (p i : Nat) : Word := BitVec.ofNat 32 (p * 2 ^ 21 + i * 2 ^ 16)

/-- The format FXP_INIT answers to a request, and whether it fell back to the default (rule R101, the four
cases in its order, on unbounded integers). -/
def initFormat (rp ri : Nat) : (Nat × Nat) × Bool :=
  if rp = 0 ∧ ri = 0 then ((16, 15), false)
  else if rp + ri + 1 > 32 then ((16, 15), true)
  else if rp = 0 then ((32 - ri - 1, ri), false)
  else if ri = 0 then ((rp, 32 - rp - 1), false)
  else ((rp, ri), false)

/-- FXP_INIT: a format from a request (rule R101). -/
def execFxpInit (s : State) : Result :=
  withA s fun a => withB s fun b =>
    let r := initFormat a.toNat b.toNat
    fxpResult (formatWord r.1.1 r.1.2) r.2 s

/-- FXP_F2Q: float to Q (rule R102). -/
def execFxpF2q (f : Fmt) (s : State) : Result :=
  needFormat f s <| withA s fun a =>
    match floatToQ f a with
    | none => raise .invalidFloat s
    | some q => fxpResult (u32 q) false s

/-- FXP_Q2F: Q to float (rule R103). -/
def execFxpQ2f (f : Fmt) (s : State) : Result :=
  needFormat f s <| withA s fun a => fxpResult (rne32 (s32 a) f.fp.toNat) false s

/-- FXP_I2Q: integer to Q (rule R104). -/
def execFxpI2q (f : Fmt) (s : State) : Result :=
  needFormat f s <| withA s fun a => fxpResult (u32 (sat32 (s32 a * 2 ^ f.fp.toNat))) false s

/-- FXP_Q2I: Q to integer (rule R105). -/
def execFxpQ2i (f : Fmt) (s : State) : Result :=
  needFormat f s <| withA s fun a => fxpResult (u32 (floorDivPow (s32 a) f.fp.toNat)) false s

/-- FXP_ADD: saturating add (rule R106). -/
def execFxpAdd (s : State) : Result :=
  withA s fun a => withB s fun b => fxpResult (u32 (sat32 (s32 a + s32 b))) false s

/-- FXP_SUB: saturating subtract, the difference formed exactly (rule R107). -/
def execFxpSub (s : State) : Result :=
  withA s fun a => withB s fun b => fxpResult (u32 (sat32 (s32 a - s32 b))) false s

/-- FXP_MUL: saturating Q multiply, shifted first, then saturated (rule R108). -/
def execFxpMul (f : Fmt) (s : State) : Result :=
  needFormat f s <| withA s fun a => withB s fun b =>
    fxpResult (u32 (sat32 (floorDivPow (s32 a * s32 b) f.fp.toNat))) false s

/-- FXP_DIV: saturating Q divide (rule R109). -/
def execFxpDiv (f : Fmt) (s : State) : Result :=
  needFormat f s <| withA s fun a => withB s fun b =>
    if s32 b = 0 then raise .divisionByZero s
    else fxpResult (u32 (sat32 (truncDiv (s32 a * 2 ^ f.fp.toNat) (s32 b)))) false s

/-- FXP_ONE: the unit 1.0 of a format (rule R110). -/
def execFxpOne (f : Fmt) (s : State) : Result :=
  needFormat f s <| fxpResult (u32 (sat32 (2 ^ f.fp.toNat))) false s

end Sys2Proof.Machine
end

