-- ==== Sys2Proof/Machine/Mean.lean ====
section
/-! DEFINITION. The meanings of the running-mean commands (41_mean.md). Each acts on MEAN[m], `m = SEL`;
the checks come in the order of 60_exceptions.md rule R216. -/

namespace Sys2Proof.Machine

/-- MEAN_INIT: configure and clear an accumulator; of the format only P is kept (rule R141). -/
def execMeanInit (f : Fmt) (m : BitVec 8) (s : State) : Result :=
  needFormat f s <| needMean m s <| withA s fun a =>
    complete .ok false (s.setMean m.toNat ⟨0#64, 0#32, a, f.fp, true⟩)

/-- The accumulator after a sample (rules R142, R143): the sum takes it only while INDEX < MAXSIZE, INDEX
counts it in any case and wraps. -/
def meanAdd (a : Mean) (v : Word) : Mean :=
  { a with
    sum := if a.index.toNat < a.maxSize.toNat then BitVec.ofInt 64 (a.sum.toInt + s32 v) else a.sum
    index := a.index + 1#32 }

/-- MEAN_ADD: add a sample and answer the running sum in RESH:RES (rule R143). -/
def execMeanAdd (m : BitVec 8) (s : State) : Result :=
  needMean m s <| needMeanValid m s <| withA s fun v =>
    let a := meanAdd (s.meanAt m.toNat) v
    complete .ok false
      (((s.setMean m.toNat a).setRes (a.sum.extractLsb' 0 32)).setResh (a.sum.extractLsb' 32 32))

/-- MEAN_RESET: clear the window; MAXSIZE, PREC and VALID stay (rule R144). -/
def execMeanReset (m : BitVec 8) (s : State) : Result :=
  needMean m s <| needMeanValid m s <|
    complete .ok false (s.setMean m.toNat { s.meanAt m.toNat with sum := 0#64, index := 0#32 })

/-- The divisor of MEAN_CALC: the override if nonzero, else MAXSIZE (rule R145). -/
def meanDivisor (a : Mean) (ov : Word) : Nat :=
  if ov.toNat ≠ 0 then ov.toNat else a.maxSize.toNat

/-- The mean of rule R145, its numerator and denominator both scaled by `2^PREC`, exactly. -/
def meanValue (a : Mean) (n : Nat) : Int :=
  sat32 (truncDiv (a.sum.toInt * 2 ^ a.prec.toNat) ((n : Int) * 2 ^ a.prec.toNat))

/-- MEAN_CALC: read the mean (rule R145). -/
def execMeanCalc (m : BitVec 8) (s : State) : Result :=
  needMean m s <| needMeanValid m s <| withA s fun ov =>
    let a := s.meanAt m.toNat
    let n := meanDivisor a ov
    if n = 0 then raise .divisionByZero s
    else complete .ok false (s.setRes (u32 (meanValue a n)))

end Sys2Proof.Machine
end

