-- ==== Sys2Proof/Machine/Rdo.lean ====
section
/-! DEFINITION. The meanings of the RDO commands (42_rdo_client.md section 2) and the engine's part as a
slot client (section 3). -/

namespace Sys2Proof.Machine

/-- The advanced offset, the sum formed exactly before the modulus (rule R162). -/
def Rdo.advanced (r : Rdo) : Rdo :=
  { r with offset := BitVec.ofNat 16 ((r.offset.toNat + 1) % r.rollover.toNat) }

/-- `adv(e)` (rule R162). -/
def adv (e : Nat) (s : State) : State := s.setRdo e (s.rdoAt e).advanced

/-- RDO_INIT: initialise an engine; target 0 asks for rollover 15 (rule R161). -/
def execRdoInit (e : BitVec 8) (s : State) : Result :=
  needRdo e s <| withA s fun a =>
    if a.extractLsb' 16 16 ≠ 0#16 then raise .illegalOperand s
    else
      let target : Half := a.extractLsb' 0 16
      complete .ok false (s.setRdo e.toNat ⟨0#16, if target ≠ 0#16 then target else 15#16, true, true⟩)

/-- RDO_ADVANCE: advance without a buffer, whatever ENABLED is (rule R163). -/
def execRdoAdvance (e : BitVec 8) (s : State) : Result :=
  needRdo e s <| needRdoValid e s <| complete .ok false (adv e.toNat s)

/-- RDO_GET: read the offset, 0 from a disabled engine (rule R164). -/
def execRdoGet (e : BitVec 8) (s : State) : Result :=
  needRdo e s <| needRdoValid e s <|
    let r := s.rdoAt e.toNat
    complete .ok false (s.setRes (if r.enabled then r.offset.setWidth 32 else 0#32))

/-- RDO_ENABLE: set the enabled flag from OPA[0] (rule R165). -/
def execRdoEnable (e : BitVec 8) (s : State) : Result :=
  needRdo e s <| needRdoValid e s <| withA s fun a =>
    if a.extractLsb' 1 31 ≠ 0#31 then raise .illegalOperand s
    else complete .ok false (s.setRdo e.toNat { s.rdoAt e.toNat with enabled := a.getLsbD 0 })

/-- The checks of a dispatch to port 1, in their order (rules R166, R167). -/
def needEngine (d : Slot) (s : State) (k : Walk) : Walk :=
  if s.cfg.rdoCount ≤ d.inst.toNat then .stop .unboundHandler s
  else if (s.rdoAt d.inst.toNat).valid = false then .stop .notInitialised s
  else if d.size ≠ 2#16 then .stop .sizeMismatch s
  else k

/-- The RDO wire field: two bytes, big-endian (rule R166, 20_memory.md rule R66). -/
def rdoField (o : Half) : List Byte := [o.extractLsb' 8 8, o.extractLsb' 0 8]

/-- Send dispatch to port 1: advance, then write the new offset whatever ENABLED is (rule R166). -/
def rdoSend (d : Slot) (s : State) : Walk :=
  needEngine d s <|
    let t := adv d.inst.toNat s
    .done (t.setFb (Memory.writeBytes t.fb d.index.toNat (rdoField (t.rdoAt d.inst.toNat).offset)))

/-- Receive dispatch to port 1: the two bytes are checked for written marks, then the engine advances, then
the received value replaces the offset (rule R167). -/
def rdoRecv (d : Slot) (s : State) : Walk :=
  needEngine d s <|
    match Memory.read s.fb d.index.toNat, Memory.read s.fb (d.index.toNat + 1) with
    | some hiB, some loB =>
      let t := adv d.inst.toNat s
      .done (t.setRdo d.inst.toNat { t.rdoAt d.inst.toNat with offset := hiB ++ loB })
    | _, _ => .stop .unwrittenRead s

end Sys2Proof.Machine
end

