-- ==== Sys2Proof/Machine/Mux.lean ====
section
/-! DEFINITION. The meanings of the multiplexer commands and slot dispatch (43_multiplexer.md). A command
runs its dispatches one at a time in slot order (rule R193). A dispatch to an external client takes the
client's answer if it has come; if not, the command waits (rules R193, R222): exec then answers a state
that is busy at that slot, and later steps go on from there (log 6, log 7). -/

namespace Sys2Proof.Machine

/-- Handler number 1: the built-in RDO engines (rule R190). -/
def portRdo : Byte := 1#8

/-- Handler `h` names an external client port: `2 <= h <= EXT_PORTS + 1` (rule R190). -/
abbrev isExternal (c : Config) (h : Byte) : Prop := 2 ≤ h.toNat ∧ h.toNat ≤ c.extPorts + 1

/-- MUX_SEND at slot `i`, whose SendReq has been issued: take the SendRsp, which carries exactly SIZE
bytes, and write them to the slot's window; until it comes, wait (rules R191, R193). -/
def takeSendRsp (i : Nat) (s : State) : Walk :=
  match s.clients with
  | .sendRsp bs :: rest =>
    if bs.length = (s.slotAt i).size.toNat then
      .done ((s.setFb (Memory.writeBytes s.fb (s.slotAt i).index.toNat bs)).setClients rest)
    else .wait (.sendRsp i) s
  | _ => .wait (.sendRsp i) s

/-- MUX_RECV at slot `i`, whose RecvReq has been issued: take the RecvAck; until it comes, wait
(rules R192, R193). -/
def takeRecvAck (i : Nat) (s : State) : Walk :=
  match s.clients with
  | .recvAck :: rest => .done (s.setClients rest)
  | _ => .wait (.recvAck i) s

/-- `send_dispatch(i)` (rule R191). -/
def sendDispatch (i : Nat) (s : State) : Walk :=
  let d := s.slotAt i
  if d.send = portRdo then rdoSend d s
  else if isExternal s.cfg d.send then
    takeSendRsp i (s.issue (.sendReq (d.send.toNat - 2) d.inst d.size.toNat))
  else .stop .unboundHandler s

/-- `recv_dispatch(i)` (rule R192). -/
def recvDispatch (i : Nat) (s : State) : Walk :=
  let d := s.slotAt i
  if d.recv = portRdo then rdoRecv d s
  else if isExternal s.cfg d.recv then
    match Memory.readBytes s.fb d.index.toNat d.size.toNat with
    | none => .stop .unwrittenRead s
    | some bs => takeRecvAck i (s.issue (.recvReq (d.recv.toNat - 2) d.inst bs))
  else .stop .unboundHandler s

/-- `n` dispatches in slot order from slot `i` on; the first that does not complete ends the run
(rules R193, R194). -/
def walkSlots (dispatch : Nat → State → Walk) (n i : Nat) (s : State) : Walk :=
  match n with
  | 0 => .done s
  | n + 1 =>
    match dispatch i s with
    | .done t => walkSlots dispatch n (i + 1) t
    | w => w

/-- The end of a MUX_SEND (rules R186, R194): the total in RES once every dispatch has completed. -/
def endSend (w : Walk) : Result :=
  match w with
  | .done t => complete .ok false ((t.setBusy none).setRes (t.muxOffset.setWidth 32))
  | .stop c t => raise c (t.setBusy none)
  | .wait q t => .next (t.setBusy (some q))

/-- The end of a MUX_RECV (rules R188, R194). -/
def endRecv (w : Walk) : Result :=
  match w with
  | .done t => complete .ok false (t.setBusy none)
  | .stop c t => raise c (t.setBusy none)
  | .wait q t => .next (t.setBusy (some q))

/-- The rest of a MUX_SEND that waits at slot `i` (rule R193). -/
def resumeSend (i : Nat) (s : State) : Result :=
  endSend <|
    match takeSendRsp i s with
    | .done t => walkSlots sendDispatch (t.muxCount.toNat - (i + 1)) (i + 1) t
    | w => w

/-- The rest of a MUX_RECV that waits at slot `i` (rule R193). -/
def resumeRecv (i : Nat) (s : State) : Result :=
  endRecv <|
    match takeRecvAck i s with
    | .done t => walkSlots recvDispatch (t.muxCount.toNat - (i + 1)) (i + 1) t
    | w => w

/-- MUX_INIT: create the table, once (rule R181). -/
def execMuxInit (s : State) : Result :=
  if s.muxState ≠ .unconfigured then raise .reinit s
  else withA s fun a =>
    if a.toNat > s.cfg.fbBytes then raise .badConfig s
    else complete .ok false (s.createTable (a.setWidth 16))

/-- MUX_ADD: register a slot (rules R183, R184). -/
def execMuxAdd (s : State) : Result :=
  needTable s <| withA s fun a => withB s fun b =>
    if s.muxCount.toNat = s.cfg.muxMaxSlots then complete .tooManyProtocols false s
    else if s.muxOffset.toNat + (opbSize b).toNat > s.muxMaxbuf.toNat then complete .noMoreSpace false s
    else complete .ok false (s.appendSlot ⟨a, opbSize b, s.muxOffset, opbSend b, opbRecv b⟩)

/-- MUX_SEND: pack the frame (rule R186). -/
def execMuxSend (s : State) : Result :=
  needTable s <| endSend (walkSlots sendDispatch s.muxCount.toNat 0 s)

/-- MUX_RECV: unpack the frame (rule R188). -/
def execMuxRecv (s : State) : Result :=
  needTable s <| withA s fun len =>
    if len.toNat < s.muxOffset.toNat then raise .shortFrame s
    else endRecv (walkSlots recvDispatch s.muxCount.toNat 0 s)

end Sys2Proof.Machine
end

