-- ==== Sys2Proof/Machine/Dispatch.lean ====
section
/-! DEFINITION. The meaning of every command, one arm per constructor of Instr. -/

namespace Sys2Proof.Machine

def exec (i : Instr) (s : State) : Host.Outcome State Fault Refusal :=
  match i with
  | .fxpInit => Sys2Proof.Machine.execFxpInit s
  | .fxpF2q f => Sys2Proof.Machine.execFxpF2q f s
  | .fxpQ2f f => Sys2Proof.Machine.execFxpQ2f f s
  | .fxpI2q f => Sys2Proof.Machine.execFxpI2q f s
  | .fxpQ2i f => Sys2Proof.Machine.execFxpQ2i f s
  | .fxpAdd => Sys2Proof.Machine.execFxpAdd s
  | .fxpSub => Sys2Proof.Machine.execFxpSub s
  | .fxpMul f => Sys2Proof.Machine.execFxpMul f s
  | .fxpDiv f => Sys2Proof.Machine.execFxpDiv f s
  | .fxpOne f => Sys2Proof.Machine.execFxpOne f s
  | .meanInit f sel => Sys2Proof.Machine.execMeanInit f sel s
  | .meanAdd sel => Sys2Proof.Machine.execMeanAdd sel s
  | .meanReset sel => Sys2Proof.Machine.execMeanReset sel s
  | .meanCalc sel => Sys2Proof.Machine.execMeanCalc sel s
  | .muxInit => Sys2Proof.Machine.execMuxInit s
  | .muxAdd => Sys2Proof.Machine.execMuxAdd s
  | .muxSend => Sys2Proof.Machine.execMuxSend s
  | .muxRecv => Sys2Proof.Machine.execMuxRecv s
  | .rdoInit sel => Sys2Proof.Machine.execRdoInit sel s
  | .rdoAdvance sel => Sys2Proof.Machine.execRdoAdvance sel s
  | .rdoGet sel => Sys2Proof.Machine.execRdoGet sel s
  | .rdoEnable sel => Sys2Proof.Machine.execRdoEnable sel s

end Sys2Proof.Machine
end

