-- ==== Sys2Proof/Machine/Bus.lean ====
section
/-! DEFINITION. Host bus accesses (20_memory.md), the register map (10_state.md rule R36), the write to CMD
that runs a command (60_exceptions.md rule R210), and what one step of the block is (00_scope.md rule
R6). -/

namespace Sys2Proof.Machine

/-- The registers of rule R36, by name. -/
inductive Reg where
  | cmd
  | opa
  | opb
  | res
  | resh
  | status
  | muxState
  | muxCount
  | muxOffset
  | muxMaxbuf
  | param0
  | param1
  | meanSumLo (m : Nat)
  | meanSumHi (m : Nat)
  | meanIndex (m : Nat)
  | meanMaxSize (m : Nat)
  | meanCfg (m : Nat)
  | slotInstance (i : Nat)
  | slotSize (i : Nat)
  | slotIndex (i : Nat)
  | slotHandlers (i : Nat)
  | rdoOffset (e : Nat)
  | rdoRollover (e : Nat)
  | rdoCtrl (e : Nat)
  deriving DecidableEq, Repr

/-- The offset of a register in the window (rule R36). -/
def Reg.offset (r : Reg) : Nat :=
  match r with
  | .cmd => 0x000
  | .opa => 0x004
  | .opb => 0x008
  | .res => 0x00C
  | .resh => 0x010
  | .status => 0x014
  | .muxState => 0x018
  | .muxCount => 0x01C
  | .muxOffset => 0x020
  | .muxMaxbuf => 0x024
  | .param0 => 0x028
  | .param1 => 0x02C
  | .meanSumLo m => 0x100 + 0x20 * m + 0x00
  | .meanSumHi m => 0x100 + 0x20 * m + 0x04
  | .meanIndex m => 0x100 + 0x20 * m + 0x08
  | .meanMaxSize m => 0x100 + 0x20 * m + 0x0C
  | .meanCfg m => 0x100 + 0x20 * m + 0x10
  | .slotInstance i => 0x200 + 0x10 * i + 0x0
  | .slotSize i => 0x200 + 0x10 * i + 0x4
  | .slotIndex i => 0x200 + 0x10 * i + 0x8
  | .slotHandlers i => 0x200 + 0x10 * i + 0xC
  | .rdoOffset e => 0x400 + 0x10 * e + 0x0
  | .rdoRollover e => 0x400 + 0x10 * e + 0x4
  | .rdoCtrl e => 0x400 + 0x10 * e + 0x8

/-- The registers that exist in a configuration (rule R36). -/
abbrev Reg.Exists (c : Config) (r : Reg) : Prop :=
  match r with
  | .meanSumLo m | .meanSumHi m | .meanIndex m | .meanMaxSize m | .meanCfg m => m < c.meanCount
  | .slotInstance i | .slotSize i | .slotIndex i | .slotHandlers i => i < c.muxMaxSlots
  | .rdoOffset e | .rdoRollover e | .rdoCtrl e => e < c.rdoCount
  | .cmd | .opa | .opb | .res | .resh | .status => True
  | .muxState | .muxCount | .muxOffset | .muxMaxbuf | .param0 | .param1 => True

/-- The register of MEAN[m] at this place of its stride. -/
def meanReg (m place : Nat) : Option Reg :=
  match place with
  | 0x00 => some (.meanSumLo m)
  | 0x04 => some (.meanSumHi m)
  | 0x08 => some (.meanIndex m)
  | 0x0C => some (.meanMaxSize m)
  | 0x10 => some (.meanCfg m)
  | _ => none

/-- The register of SLOT[i] at this place of its stride. -/
def slotReg (i place : Nat) : Option Reg :=
  match place with
  | 0x0 => some (.slotInstance i)
  | 0x4 => some (.slotSize i)
  | 0x8 => some (.slotIndex i)
  | 0xC => some (.slotHandlers i)
  | _ => none

/-- The register of RDO[e] at this place of its stride. -/
def rdoReg (e place : Nat) : Option Reg :=
  match place with
  | 0x0 => some (.rdoOffset e)
  | 0x4 => some (.rdoRollover e)
  | 0x8 => some (.rdoCtrl e)
  | _ => none

/-- The registers at the fixed offsets of rule R36. -/
def fixedReg (off : Nat) : Option Reg :=
  match off with
  | 0x000 => some .cmd
  | 0x004 => some .opa
  | 0x008 => some .opb
  | 0x00C => some .res
  | 0x010 => some .resh
  | 0x014 => some .status
  | 0x018 => some .muxState
  | 0x01C => some .muxCount
  | 0x020 => some .muxOffset
  | 0x024 => some .muxMaxbuf
  | 0x028 => some .param0
  | 0x02C => some .param1
  | _ => none

/-- The register at an offset below 0x1000, or `none` where the offset is reserved or misaligned
(10_state.md rule R36, 20_memory.md rules R62, R64). -/
def regAt (c : Config) (off : Nat) : Option Reg :=
  if off < 0x100 then fixedReg off
  else if off < 0x200 then
    if (off - 0x100) / 0x20 < c.meanCount then meanReg ((off - 0x100) / 0x20) ((off - 0x100) % 0x20)
    else none
  else if off < 0x400 then
    if (off - 0x200) / 0x10 < c.muxMaxSlots then slotReg ((off - 0x200) / 0x10) ((off - 0x200) % 0x10)
    else none
  else if off < 0x500 then
    if (off - 0x400) / 0x10 < c.rdoCount then rdoReg ((off - 0x400) / 0x10) ((off - 0x400) % 0x10)
    else none
  else none

/-- The two bits of MUX_STATE (rule R29). -/
def MuxState.bits (m : MuxState) : BitVec 2 :=
  match m with
  | .unconfigured => 0#2
  | .configured => 1#2
  | .built => 2#2

/-- PARAM0 (rule R27): EXT_PORTS in 31:24, RDO_COUNT in 23:16, MEAN_COUNT in 15:8, MUX_MAX_SLOTS in 7:0. -/
def param0 (c : Config) : Word :=
  BitVec.ofNat 8 c.extPorts ++ BitVec.ofNat 8 c.rdoCount ++ BitVec.ofNat 8 c.meanCount ++
    BitVec.ofNat 8 c.muxMaxSlots

/-- The value of a register, `none` where its written mark is clear (rules R22, R36; a read of CMD gives 0,
rule R24). Bits not listed read 0. -/
def regRead (s : State) (r : Reg) : Option Word :=
  match r with
  | .cmd => some 0#32
  | .opa => s.opa
  | .opb => s.opb
  | .res => s.res
  | .resh => s.resh
  | .status => some s.status.word
  | .muxState => some (s.muxState.bits.setWidth 32)
  | .muxCount => some (s.muxCount.setWidth 32)
  | .muxOffset => some (s.muxOffset.setWidth 32)
  | .muxMaxbuf => some (s.muxMaxbuf.setWidth 32)
  | .param0 => some (param0 s.cfg)
  | .param1 => some (BitVec.ofNat 32 s.cfg.fbBytes)
  | .meanSumLo m => some ((s.meanAt m).sum.extractLsb' 0 32)
  | .meanSumHi m => some ((s.meanAt m).sum.extractLsb' 32 32)
  | .meanIndex m => some (s.meanAt m).index
  | .meanMaxSize m => some (s.meanAt m).maxSize
  | .meanCfg m => some (flagBit (s.meanAt m).valid ++ 0#26 ++ (s.meanAt m).prec)
  | .slotInstance i => some (s.slotAt i).inst
  | .slotSize i => some ((s.slotAt i).size.setWidth 32)
  | .slotIndex i => some ((s.slotAt i).index.setWidth 32)
  | .slotHandlers i => some (((s.slotAt i).recv ++ (s.slotAt i).send).setWidth 32)
  | .rdoOffset e => some ((s.rdoAt e).offset.setWidth 32)
  | .rdoRollover e => some ((s.rdoAt e).rollover.setWidth 32)
  | .rdoCtrl e => some (flagBit (s.rdoAt e).valid ++ 0#30 ++ flagBit (s.rdoAt e).enabled)

/-- Where a well-sized host access lands (20_memory.md rules R61 to R64). -/
inductive Target where
  /-- A register (32-bit access, aligned). -/
  | reg (r : Reg)
  /-- Frame-buffer byte `a` (8-bit access). -/
  | byte (a : Nat)
  /-- Nothing: wrong width, misaligned or reserved. -/
  | bad
  deriving DecidableEq, Repr

/-- Where an access of `width` bits at window offset `off` lands (rules R62, R63, R64). -/
def target (c : Config) (off width : Nat) : Target :=
  if 0x1000 ≤ off then
    if off - 0x1000 < c.fbBytes ∧ width = 8 then .byte (off - 0x1000) else .bad
  else if width = 32 then
    match regAt c off with
    | some r => .reg r
    | none => .bad
  else .bad

/-- A host read that faults returns 0 (rule R62, 60_exceptions.md rule R214). -/
def readFault (c : FaultCode) (s : State) : State := (s.busFault c).setReply 0#32

/-- A host read at a window offset: it changes nothing but the data returned, unless it faults
(rules R62 to R64, R69; 10_state.md rule R22). -/
def hostRead (off width : Nat) (s : State) : State :=
  match target s.cfg off width with
  | .bad => readFault .badAccess s
  | .reg r =>
    match regRead s r with
    | some v => s.setReply v
    | none => readFault .unwrittenRead s
  | .byte a =>
    match Memory.read s.fb a with
    | some b => s.setReply (b.setWidth 32)
    | none => readFault .unwrittenRead s

/-- The code the host sees for a word that spells no command (rules R84, R87). -/
def faultOfDecode (e : DecodeError) : FaultCode :=
  match e with
  | .reservedOpcode => .illegalCommand
  | .reservedField => .illegalCommand
  | .formatNotTaken => .illegalCommand
  | .selNotTaken => .illegalCommand

/-- A 32-bit write of `w` to CMD (60_exceptions.md rules R210, R215): ignored while FAULT = 1; else the
word is decoded and the command runs, or ILLEGAL_COMMAND is raised. -/
def writeCmd (w : Word) (s : State) : Result :=
  if s.status.fault then .next s
  else
    match decode w with
    | .error e => raise (faultOfDecode e) s
    | .ok i => exec i s

/-- A host write at a window offset (rules R62 to R64, R69). -/
def hostWrite (off width : Nat) (data : Word) (s : State) : Result :=
  match target s.cfg off width with
  | .reg .cmd => writeCmd data s
  | .reg .opa => .next (s.setOpa data)
  | .reg .opb => .next (s.setOpb data)
  | .reg _ => .next (s.busFault .badAccess)
  | .byte a => .next (s.setFb (Memory.write s.fb a (data.setWidth 8)))
  | .bad => .next (s.busFault .badAccess)

/-- The size of the block's window (rule R61). -/
def windowBytes : Nat := 0x2000

/-- The bus address lies in the block's window (rules R61, R65). -/
abbrev inWindow (c : Config) (addr : Nat) : Prop :=
  c.fxmuxBase ≤ addr ∧ addr < c.fxmuxBase + windowBytes

/-- One event, already taken from the input list. -/
def takeStep (ev : Event) (s : State) : Result :=
  match ev with
  | .reset => .next s.platformReset
  | .read addr width =>
    if inWindow s.cfg addr then .next (hostRead (addr - s.cfg.fxmuxBase) width s) else .fault .outsideWindow
  | .write addr width data =>
    if inWindow s.cfg addr then hostWrite (addr - s.cfg.fxmuxBase) width data s else .fault .outsideWindow

/-- A command waits for an external client: it goes on when the answer has come, and otherwise nothing
happens; no host access is taken (43_multiplexer.md rule R193, 60_exceptions.md rule R222). -/
def resume (w : Wait) (s : State) : Result :=
  match w with
  | .sendRsp i => resumeSend i s
  | .recvAck i => resumeRecv i s

/-- One step of the block (00_scope.md rule R6): take the next event and perform it completely. A platform
reset is taken at any time; a host access only when no command is in progress (rule R71, log 9). With
nothing to take the block does nothing (70_reset_and_hazards.md rule R241). -/
def blockStep (s : State) : Result :=
  match s.bus, s.busy with
  | .reset :: rest, _ => takeStep .reset (s.takeEvent rest)
  | _, some w => resume w s
  | ev :: rest, none => takeStep ev (s.takeEvent rest)
  | [], none => .next s

/-- `s` with a 32-bit write of `w` to CMD as the next event, and the block able to take it: no command in
progress and no fault recorded, since a faulted block ignores CMD (60_exceptions.md rule R215; log 18). -/
def State.present (s : State) (w : Word) : State :=
  { s with
    bus := .write (s.cfg.fxmuxBase + Reg.cmd.offset) 32 w :: s.bus
    busy := none
    status := { s.status with fault := false, fcode := 0#8 } }

end Sys2Proof.Machine
end

