-- ==== Sys2Proof/Machine/Step.lean ====
section
/-! DEFINITION. One step of FXMUX, and how the host of this pipeline places a command where the block takes
its next one. -/

namespace Sys2Proof.Machine

/-- One step of the block: one host bus access, one platform reset, or the continuation of a command that
waits for a client (00_scope.md rule R6). -/
def step (s : State) : Host.Outcome State Fault Refusal := blockStep s

/-- `s` with the command word `w` (its `nbits` table bits, every bit above them 0) written to CMD as the
very next access. FXMUX fetches nothing (20_memory.md rule R74): a command comes to run only by the host's
write to CMD, and this stands for that write (log 4, log 18). -/
def State.withFetchWord (s : State) (nbits w : Nat) : State :=
  s.present (BitVec.ofNat 32 (w % 2 ^ nbits))

end Sys2Proof.Machine
end

