-- ==== Sys2Proof/Safety.lean ====
section
/-! DEFINITION. The terms claims are stated in: what the rules say of a result, written without the model's
own arithmetic; STATUS after a command; the conditions under which a command runs; and the invariants of
the machine (10_state.md rules R22, R28 to R34, 60_exceptions.md rule R212). -/

namespace Sys2Proof.Machine

/-! ### Results -/

/-- `r` is the encoding of `x` clamped to the signed 32-bit range (40_fixed_point.md rule R111). -/
abbrev Clamped (x : Int) (r : Word) : Prop :=
  r.toInt = if x < -2147483648 then -2147483648 else if 2147483647 < x then 2147483647 else x

/-- `q` is `num / den` rounded toward zero (00_scope.md rule R10, `trunc_div`). -/
abbrev RoundedToZero (q num den : Int) : Prop :=
  |q| * |den| ≤ |num| ∧ |num| < (|q| + 1) * |den| ∧ 0 ≤ q * (num * den)

/-- STATUS of a command that completed with outcome code `c` (60_exceptions.md rule R211): the fault
record is as before. -/
def Status.ended (st : Status) (c : BitVec 8) (dflt : Bool) : Status := ⟨c, dflt, st.fcode, st.fault⟩

/-- STATUS after a command raised fault code `c` (60_exceptions.md rule R214). -/
def Status.faulted (st : Status) (c : BitVec 8) : Status :=
  ⟨c, false, if st.fault then st.fcode else c, true⟩

/-- STATUS after a bus access raised fault code `c` (60_exceptions.md rule R214). -/
def Status.busFaulted (st : Status) (c : BitVec 8) : Status :=
  ⟨st.code, st.defaulted, if st.fault then st.fcode else c, true⟩

/-- The state after a command faulted with code `c` before it wrote anything: nothing but STATUS changed. -/
def State.faultedWith (s : State) (c : BitVec 8) : State := { s with status := s.status.faulted c }

/-- The state after an FXP command wrote RES: nothing else but STATUS changed (40_fixed_point.md rule
R100). -/
def State.afterFxp (s : State) (r : Word) (dflt : Bool) : State :=
  { s with res := some r, status := s.status.ended 0x00#8 dflt }

end Sys2Proof.Machine

namespace Sys2Proof

/-! ### The opcode table -/

/-- The match of a command's row (30_encoding.md rule R86). -/
def Instr.rowMatch (i : Instr) : Word :=
  match i with
  | .fxpInit => 0x04000000#32
  | .fxpF2q _ => 0x08000000#32
  | .fxpQ2f _ => 0x0C000000#32
  | .fxpI2q _ => 0x10000000#32
  | .fxpQ2i _ => 0x14000000#32
  | .fxpAdd => 0x18000000#32
  | .fxpSub => 0x1C000000#32
  | .fxpMul _ => 0x20000000#32
  | .fxpDiv _ => 0x24000000#32
  | .fxpOne _ => 0x28000000#32
  | .meanInit _ _ => 0x40000000#32
  | .meanAdd _ => 0x44000000#32
  | .meanReset _ => 0x48000000#32
  | .meanCalc _ => 0x4C000000#32
  | .muxInit => 0x80000000#32
  | .muxAdd => 0x84000000#32
  | .muxSend => 0x88000000#32
  | .muxRecv => 0x8C000000#32
  | .rdoInit _ => 0xA0000000#32
  | .rdoAdvance _ => 0xA4000000#32
  | .rdoGet _ => 0xA8000000#32
  | .rdoEnable _ => 0xAC000000#32

/-- The mask of a command's row (30_encoding.md rule R86). -/
def Instr.rowMask (i : Instr) : Word :=
  match i with
  | .fxpInit => 0xFFFFFFFF#32
  | .fxpF2q _ => 0xFC00FFFF#32
  | .fxpQ2f _ => 0xFC00FFFF#32
  | .fxpI2q _ => 0xFC00FFFF#32
  | .fxpQ2i _ => 0xFC00FFFF#32
  | .fxpAdd => 0xFFFFFFFF#32
  | .fxpSub => 0xFFFFFFFF#32
  | .fxpMul _ => 0xFC00FFFF#32
  | .fxpDiv _ => 0xFC00FFFF#32
  | .fxpOne _ => 0xFC00FFFF#32
  | .meanInit _ _ => 0xFC0000FF#32
  | .meanAdd _ => 0xFFFF00FF#32
  | .meanReset _ => 0xFFFF00FF#32
  | .meanCalc _ => 0xFFFF00FF#32
  | .muxInit => 0xFFFFFFFF#32
  | .muxAdd => 0xFFFFFFFF#32
  | .muxSend => 0xFFFFFFFF#32
  | .muxRecv => 0xFFFFFFFF#32
  | .rdoInit _ => 0xFFFF00FF#32
  | .rdoAdvance _ => 0xFFFF00FF#32
  | .rdoGet _ => 0xFFFF00FF#32
  | .rdoEnable _ => 0xFFFF00FF#32

/-- The word spells the command's row: `w & mask = match` (30_encoding.md rule R86). -/
abbrev Instr.spelledBy (i : Instr) (w : Word) : Prop := w &&& i.rowMask = i.rowMatch

/-! ### When a command runs -/

/-- The commands that read OPA (30_encoding.md rule R88). -/
def Instr.readsA (i : Instr) : Bool :=
  match i with
  | .fxpInit | .fxpF2q _ | .fxpQ2f _ | .fxpI2q _ | .fxpQ2i _ | .fxpAdd | .fxpSub | .fxpMul _ | .fxpDiv _ => true
  | .fxpOne _ => false
  | .meanInit _ _ | .meanAdd _ | .meanCalc _ => true
  | .meanReset _ => false
  | .muxInit | .muxAdd | .muxRecv => true
  | .muxSend => false
  | .rdoInit _ | .rdoEnable _ => true
  | .rdoAdvance _ | .rdoGet _ => false

/-- The commands that read OPB (30_encoding.md rule R88). -/
def Instr.readsB (i : Instr) : Bool :=
  match i with
  | .fxpInit | .fxpAdd | .fxpSub | .fxpMul _ | .fxpDiv _ | .muxAdd => true
  | .fxpF2q _ | .fxpQ2f _ | .fxpI2q _ | .fxpQ2i _ | .fxpOne _ => false
  | .meanInit _ _ | .meanAdd _ | .meanReset _ | .meanCalc _ => false
  | .muxInit | .muxSend | .muxRecv => false
  | .rdoInit _ | .rdoAdvance _ | .rdoGet _ | .rdoEnable _ => false

/-- The instance a command acts on is in the state the command needs (41_mean.md rule R140, 42_rdo_client.md
rule R160, 43_multiplexer.md rules R180, R181). -/
abbrev Instr.InstanceReady (i : Instr) (s : Machine.State) : Prop :=
  match i with
  | .meanAdd m | .meanReset m | .meanCalc m => (s.meanAt m.toNat).valid = true
  | .rdoAdvance e | .rdoGet e | .rdoEnable e => (s.rdoAt e.toNat).valid = true
  | .muxAdd | .muxSend | .muxRecv => s.muxState ≠ .unconfigured
  | .muxInit => s.muxState = .unconfigured
  | .fxpInit | .fxpF2q _ | .fxpQ2f _ | .fxpI2q _ | .fxpQ2i _ | .fxpAdd | .fxpSub => True
  | .fxpMul _ | .fxpDiv _ | .fxpOne _ | .meanInit _ _ | .rdoInit _ => True

/-- The code a command raises when its instance is not ready: REINIT for MUX_INIT, else NOT_INITIALISED
(60_exceptions.md rule R212). -/
def Instr.instanceCode (i : Instr) : BitVec 8 := if i = .muxInit then 0x17#8 else 0x16#8

/-- The checks of a command that come before its own rule, in the order of 60_exceptions.md rule R216, and the
code each raises (rule R212), with nothing but the fault recorded. -/
abbrev Instr.ChecksFirst (i : Instr) (s : Machine.State) : Prop :=
  (¬ i.formatOk → Machine.exec i s = .next (s.faultedWith 0x11#8)) ∧
  (i.formatOk → ¬ i.selectOk s.cfg → Machine.exec i s = .next (s.faultedWith 0x15#8)) ∧
  (i.WellFormed s.cfg → ¬ i.InstanceReady s → Machine.exec i s = .next (s.faultedWith i.instanceCode)) ∧
  (i.WellFormed s.cfg → i.InstanceReady s →
    (i.readsA = true ∧ s.opa = none) ∨ (i.readsB = true ∧ s.opb = none) →
    Machine.exec i s = .next (s.faultedWith 0x14#8))

/-- What a command's rule says besides its effect: its word is `w`, and its checks come first. -/
abbrev Instr.EncodedAndChecked (i : Instr) (w : Nat) : Prop :=
  encode i = BitVec.ofNat 32 w ∧ ∀ s : Machine.State, i.ChecksFirst s

end Sys2Proof

namespace Sys2Proof.Machine

/-! ### The table -/

/-- The sum of the sizes of the first `n` descriptors (10_state.md rule R30). -/
def frameLen (slots : List Slot) (n : Nat) : Nat := ((slots.take n).map (fun d => d.size.toNat)).sum

/-- The registered descriptors, in wire order (10_state.md rule R31). -/
def State.registered (s : State) : List Slot := s.slots.take s.muxCount.toNat

/-- Run commands one after another, as long as each answers a next state. -/
def execAll (is : List Instr) (s : State) : Result :=
  match is with
  | [] => .next s
  | i :: rest =>
    match exec i s with
    | .next t => execAll rest t
    | .fault f => .fault f
    | .refused r => .refused r

/-- MEAN_ADD on MEAN[m] once for each sample, the host writing it to OPA first (30_encoding.md rule R92). -/
def addSamples (m : BitVec 8) (vs : List Word) (s : State) : Result :=
  match vs with
  | [] => .next s
  | v :: rest =>
    match exec (.meanAdd m) { s with opa := some v } with
    | .next t => addSamples m rest t
    | .fault f => .fault f
    | .refused r => .refused r

/-- MUX_ADD once for each pair of operands, the host writing them to OPA and OPB first (30_encoding.md rule
R92). -/
def addSlots (ops : List (Word × Word)) (s : State) : Result :=
  match ops with
  | [] => .next s
  | (a, b) :: rest =>
    match exec .muxAdd { s with opa := some a, opb := some b } with
    | .next t => addSlots rest t
    | .fault f => .fault f
    | .refused r => .refused r

/-- The external slots among `ds`, seen from their send handlers (43_multiplexer.md rule R190). -/
def sendClients (c : Config) (ds : List Slot) : List Slot :=
  ds.filter fun d => decide (d.send ≠ 1#8 ∧ isExternal c d.send)

/-- The external slots among `ds`, seen from their receive handlers (43_multiplexer.md rule R190). -/
def recvClients (c : Config) (ds : List Slot) : List Slot :=
  ds.filter fun d => decide (d.recv ≠ 1#8 ∧ isExternal c d.recv)

/-- A port-1 slot names a valid engine and has the wire field's size (42_rdo_client.md rules R166, R167). -/
abbrev engineReady (s : State) (d : Slot) : Prop :=
  d.inst.toNat < s.cfg.rdoCount ∧ (s.rdoAt d.inst.toNat).valid = true ∧ d.size = 2#16

/-- Every slot's send handler is bound: an engine that is ready, or an external port that exists
(43_multiplexer.md rule R190). -/
abbrev sendBound (s : State) : Prop :=
  ∀ d ∈ s.registered, (d.send = 1#8 ∧ engineReady s d) ∨ (d.send ≠ 1#8 ∧ isExternal s.cfg d.send)

/-- Every slot's receive handler is bound (43_multiplexer.md rule R190). -/
abbrev recvBound (s : State) : Prop :=
  ∀ d ∈ s.registered, (d.recv = 1#8 ∧ engineReady s d) ∨ (d.recv ≠ 1#8 ∧ isExternal s.cfg d.recv)

/-- The answers `bss` are one per external slot of `ds`, each of exactly the slot's size
(43_multiplexer.md rule R191). -/
abbrev answersFit (ds : List Slot) (bss : List (List Byte)) : Prop :=
  bss.map List.length = ds.map (fun d => d.size.toNat)

/-- What the port-1 slot `k` carries after a MUX_SEND from `s`: its engine's offset advanced once for each
port-1 slot of that engine up to `k` (42_rdo_client.md rules R162, R166). -/
def State.sentOffset (s : State) (k : Nat) : Nat :=
  ((s.rdoAt (s.slotAt k).inst.toNat).offset.toNat +
    (s.registered.take (k + 1)).countP (fun d => decide (d.send = 1#8 ∧ d.inst = (s.slotAt k).inst))) %
    (s.rdoAt (s.slotAt k).inst.toNat).rollover.toNat

/-- The SendReq issued for a slot (43_multiplexer.md rule R191). -/
def sendReqOf (d : Slot) : ClientReq := .sendReq (d.send.toNat - 2) d.inst d.size.toNat

/-- The RecvReq issued for a slot with these bytes (43_multiplexer.md rule R192). -/
def recvReqOf (d : Slot) (bs : List Byte) : ClientReq := .recvReq (d.recv.toNat - 2) d.inst bs

/-! ### Invariants -/

/-- The slot table (10_state.md rules R29 to R32, R37): its size is the configuration's, MUX_OFFSET is the
sum of the registered sizes and lies within MUX_MAXBUF and the buffer, every descriptor's INDEX is the sum
of the sizes before it, the others are zero, and MUX_STATE says whether there is a table and a slot. -/
structure State.TableInv (s : State) : Prop where
  legal : s.cfg.Legal
  sized : s.slots.length = s.cfg.muxMaxSlots
  count_le : s.muxCount.toNat ≤ s.cfg.muxMaxSlots
  offset_eq : s.muxOffset.toNat = frameLen s.slots s.muxCount.toNat
  offset_le : s.muxOffset.toNat ≤ s.muxMaxbuf.toNat
  maxbuf_le : s.muxMaxbuf.toNat ≤ s.cfg.fbBytes
  index_eq : ∀ i, i < s.muxCount.toNat → (s.slotAt i).index.toNat = frameLen s.slots i
  unregistered : ∀ i, s.muxCount.toNat ≤ i → s.slotAt i = Slot.zero
  built_iff : s.muxState = .built ↔ 1 ≤ s.muxCount.toNat
  no_table : s.muxState = .unconfigured → s.muxMaxbuf = 0#16

/-- The frame buffer is in canonical form and holds bytes of FB[0 .. FB_BYTES-1] only (20_memory.md rule
R60). -/
structure State.FrameInv (s : State) : Prop where
  wf : Memory.wf s.fb
  below : ∀ c ∈ s.fb, c.1 < s.cfg.fbBytes

/-- The RDO engines (10_state.md rules R34, R37, 42_rdo_client.md rule R162): as many as the configuration
says, a valid one has a rollover, an invalid one is all zero. -/
structure State.EngineInv (s : State) : Prop where
  sized : s.rdo.length = s.cfg.rdoCount
  rollover : ∀ r ∈ s.rdo, r.valid = true → r.rollover ≠ 0#16
  invalid : ∀ r ∈ s.rdo, r.valid = false → r = Rdo.zero

/-- The mean bank (10_state.md rules R28, R37): as many accumulators as the configuration says, an invalid
one is all zero. -/
structure State.MeanInv (s : State) : Prop where
  sized : s.mean.length = s.cfg.meanCount
  invalid : ∀ a ∈ s.mean, a.valid = false → a = Mean.zero

/-- STATUS (10_state.md rule R25, 60_exceptions.md rule R212): CODE and FCODE hold codes of the table, FCODE
is 0 exactly while FAULT is 0, a fault code in CODE means FAULT is set, and DEFAULTED goes with OK. -/
structure State.StatusInv (s : State) : Prop where
  fcode_clear : s.status.fault = false → s.status.fcode = 0#8
  fcode_set : s.status.fault = true → ∃ c : FaultCode, s.status.fcode = c.byte
  code_ok : s.status.code.toNat ≤ 0x02 ∨ (s.status.fault = true ∧ ∃ c : FaultCode, s.status.code = c.byte)
  defaulted_ok : s.status.defaulted = true → s.status.code = 0#8

/-- A command in progress (43_multiplexer.md rule R193): it waits at a registered slot whose handler is an
external port, and FAULT is clear, since no other command or access has run since it was accepted. -/
structure State.WaitInv (s : State) : Prop where
  send : ∀ i, s.busy = some (.sendRsp i) →
    i < s.muxCount.toNat ∧ isExternal s.cfg (s.slotAt i).send ∧ (s.slotAt i).send ≠ 1#8
  recv : ∀ i, s.busy = some (.recvAck i) →
    i < s.muxCount.toNat ∧ isExternal s.cfg (s.slotAt i).recv ∧ (s.slotAt i).recv ≠ 1#8
  fault : s.busy ≠ none → s.status.fault = false

/-- All of them: what is true of FXMUX in every state a run reaches. -/
structure State.Inv (s : State) : Prop where
  table : s.TableInv
  frame : s.FrameInv
  engines : s.EngineInv
  means : s.MeanInv
  status : s.StatusInv
  waiting : s.WaitInv

end Sys2Proof.Machine
end

