-- ==== Sys2Proof/Certificates/Slice0/Obligations.lean ====
section
/-! DEFINITION. The statements for the provers. Every one is about every configuration of 00_scope.md rule
R8 unless it names a state: `s` ranges over all states, with its own parameters `s.cfg`. -/

open Sys2Proof Sys2Proof.Machine

/-! ### Encoding -/

/-- Commands and the words that decode are in bijection: decoding the word of any command gives it back,
with every field at every value, and a word that decodes to a command is that command's word, so no bit is
ignored (rules R80, R84, R86, R89). -/
def Obligations.DecodeAndEncodeAgree : Prop :=
  (∀ i : Instr, decode (encode i) = .ok i) ∧
  ∀ (w : Word) (i : Instr), decode w = .ok i → encode i = w

/-- A word decodes to a command exactly when it spells one: `w & mask = match` for a row, and then the
command it decodes to is of that row (rule R86). -/
def Obligations.DecodeAgreesWithOpcodeTable : Prop :=
  (∀ w : Word, (∃ i, decode w = .ok i) ↔ ∃ j : Instr, j.spelledBy w) ∧
  (∀ (w : Word) (i j : Instr), decode w = .ok i → j.spelledBy w → i.rowMatch = j.rowMatch) ∧
  (∀ (w : Word) (i : Instr), decode w = .ok i → i.spelledBy w)

/-- The words of rule R90's examples decode to the commands they stand for. -/
def Obligations.ExampleWordsDecode : Prop :=
  decode 0x220F0000#32 = .ok (.fxpMul ⟨16#5, 15#5⟩) ∧ decode 0x260F0000#32 = .ok (.fxpDiv ⟨16#5, 15#5⟩) ∧
  decode 0x420F0100#32 = .ok (.meanInit ⟨16#5, 15#5⟩ 1#8) ∧ decode 0xA8000000#32 = .ok (.rdoGet 0#8) ∧
  decode 0x18000000#32 = .ok .fxpAdd

/-! ### From the bus to a command -/

/-- A 32-bit write to CMD of a word that decodes to `i`, while FAULT is 0 and no command is in progress:
the step takes the access and is `exec i` (rules R24, R210). -/
def Obligations.StepRunsDecodedCommand : Prop :=
  ∀ (s : State) (w : Word) (i : Instr) (rest : List Event),
    s.busy = none → s.status.fault = false → s.bus = .write (s.cfg.fxmuxBase + 0x000) 32 w :: rest →
    decode w = .ok i → step s = exec i { s with bus := rest, reply := none }

/-- A word that matches no row of the opcode table raises ILLEGAL_COMMAND and has no other effect; among them
are the words of every reserved opcode, the all-zero word with them, and those of a defined opcode with a
nonzero field that its mask fixes at 0 (rule R87). -/
def Obligations.UnmatchedWordIsIllegal : Prop :=
  (∀ (s : State) (w : Word) (rest : List Event),
    s.busy = none → s.status.fault = false → s.bus = .write (s.cfg.fxmuxBase + 0x000) 32 w :: rest →
    (∀ i : Instr, ¬ i.spelledBy w) →
    step s = .next { s with bus := rest, reply := none, status := ⟨0x10#8, false, 0x10#8, true⟩ }) ∧
  (∀ (w : Word) (opc : Nat), w.toNat / 2 ^ 26 = opc →
    opc = 0x00 ∨ (0x0B ≤ opc ∧ opc ≤ 0x0F) ∨ (0x14 ≤ opc ∧ opc ≤ 0x1F) ∨ (0x24 ≤ opc ∧ opc ≤ 0x27) ∨
      (0x2C ≤ opc ∧ opc ≤ 0x3F) →
    ∀ i : Instr, ¬ i.spelledBy w) ∧
  (∀ (w : Word) (i : Instr), w.toNat / 2 ^ 26 = i.rowMatch.toNat / 2 ^ 26 → ¬ i.spelledBy w →
    ∀ j : Instr, ¬ j.spelledBy w)

/-- A write to CMD ends in one of three ways: completed with a status outcome, faulted with a code of the
table, or waiting for an external client; while FAULT is 1 it is not accepted (rule R210). That STATUS is
unchanged while the command waits, and that the wait is a state of its own, is log 7 (DEDUCED). -/
def Obligations.CommandEndsInOneOfThreeWays : Prop :=
  ∀ (s : State) (w : Word) (rest : List Event),
    s.busy = none → s.bus = .write (s.cfg.fxmuxBase + 0x000) 32 w :: rest →
    (s.status.fault = true → step s = .next { s with bus := rest, reply := none }) ∧
    (s.status.fault = false → ∃ t, step s = .next t ∧
      ((t.busy = none ∧ ∃ (c : BitVec 8) (d : Bool), c.toNat ≤ 2 ∧ t.status = s.status.ended c d) ∨
       (t.busy = none ∧ ∃ c : FaultCode, t.status = s.status.faulted c.byte) ∨
       (t.busy ≠ none ∧ t.status = s.status)))

/-- A command that takes a format raises ILLEGAL_FORMAT on an illegal one; once the format is legal, a SEL out
of range raises BAD_SELECT; neither does anything else (rules R82, R83, R89, R216). -/
def Obligations.FormatAndSelectChecksFault : Prop :=
  ∀ (i : Instr) (s : State),
    (¬ i.formatOk → exec i s = .next (s.faultedWith 0x11#8)) ∧
    (i.formatOk → ¬ i.selectOk s.cfg → exec i s = .next (s.faultedWith 0x15#8))

/-- A command on an instance that is not in the state it needs raises NOT_INITIALISED, MUX_INIT raises
REINIT, before it reads an operand (rules R140, R160, R180, R181, R216). -/
def Obligations.InstanceNotReadyFaults : Prop :=
  ∀ (i : Instr) (s : State), i.WellFormed s.cfg → ¬ i.InstanceReady s →
    exec i s = .next (s.faultedWith i.instanceCode)

/-- A command that reads an unwritten OPA or OPB raises OPERAND_UNWRITTEN, after the checks of its word and
its instance (rules R22, R88, R216). -/
def Obligations.UnwrittenOperandFaults : Prop :=
  ∀ (i : Instr) (s : State), i.WellFormed s.cfg → i.InstanceReady s →
    (i.readsA = true ∧ s.opa = none) ∨ (i.readsB = true ∧ s.opb = none) →
    exec i s = .next (s.faultedWith 0x14#8)

/-- What each command leaves alone, on every path, the faulting ones with them (rules R20 to R34, R88): no
command writes the configuration, OPA, OPB or what is on the bus; MEAN_INIT, MEAN_RESET, MUX_INIT, MUX_ADD,
MUX_RECV, RDO_INIT, RDO_ADVANCE and RDO_ENABLE do not write RES, and no command that faults does; only
MEAN_ADD writes RESH; only MEAN_INIT, MEAN_ADD and MEAN_RESET write the mean bank; only MUX_INIT and MUX_ADD
write the slot table's registers and descriptors; only RDO_INIT, RDO_ADVANCE, RDO_ENABLE and the dispatches
of MUX_SEND and MUX_RECV write engines; only MUX_SEND writes FB bytes; only MUX_SEND and MUX_RECV talk to
clients or wait. -/
def Obligations.CommandsWriteOnlyTheirState : Prop :=
  ∀ (i : Instr) (s t : State), exec i s = .next t →
    (t.cfg = s.cfg ∧ t.opa = s.opa ∧ t.opb = s.opb ∧ t.bus = s.bus ∧ t.reply = s.reply) ∧
    ((∃ f m, i = .meanInit f m) ∨ (∃ m, i = .meanReset m) ∨ i = .muxInit ∨ i = .muxAdd ∨ i = .muxRecv ∨
      (∃ e, i = .rdoInit e) ∨ (∃ e, i = .rdoAdvance e) ∨ (∃ e, i = .rdoEnable e) → t.res = s.res) ∧
    (∀ c : FaultCode, t.status.code = c.byte → t.res = s.res ∧ t.resh = s.resh) ∧
    ((∀ m, i ≠ .meanAdd m) → t.resh = s.resh) ∧
    ((∀ f m, i ≠ .meanInit f m) → (∀ m, i ≠ .meanAdd m) → (∀ m, i ≠ .meanReset m) → t.mean = s.mean) ∧
    (i ≠ .muxInit → i ≠ .muxAdd → t.muxState = s.muxState ∧ t.muxCount = s.muxCount ∧
      t.muxOffset = s.muxOffset ∧ t.muxMaxbuf = s.muxMaxbuf ∧ t.slots = s.slots) ∧
    ((∀ e, i ≠ .rdoInit e) → (∀ e, i ≠ .rdoAdvance e) → (∀ e, i ≠ .rdoEnable e) → i ≠ .muxSend →
      i ≠ .muxRecv → t.rdo = s.rdo) ∧
    (i ≠ .muxSend → ∀ a, Memory.read t.fb a = Memory.read s.fb a) ∧
    (i ≠ .muxSend → i ≠ .muxRecv → t.clients = s.clients ∧ t.requests = s.requests ∧ t.busy = s.busy)

/-! ### Fixed-point commands -/

/-- FXP_INIT completes on every pair of requests with the format of rule R101's four cases, a legal one, and
DEFAULTED set exactly when the request is over budget. Its word and the checks before the rule are stated
too. -/
def Obligations.FxpInitResult : Prop :=
  Instr.fxpInit.EncodedAndChecked 0x04000000 ∧
  ∀ (s : State) (a b : Word), s.opa = some a → s.opb = some b →
    ∃ (p i : Nat) (d : Bool) (r : Word), exec .fxpInit s = .next (s.afterFxp r d) ∧
      r.toNat = p * 2 ^ 21 + i * 2 ^ 16 ∧ p + i ≤ 31 ∧
      (a.toNat = 0 ∧ b.toNat = 0 → p = 16 ∧ i = 15 ∧ d = false) ∧
      (32 ≤ a.toNat + b.toNat → p = 16 ∧ i = 15 ∧ d = true) ∧
      (a.toNat = 0 ∧ 0 < b.toNat ∧ b.toNat ≤ 31 → p = 31 - b.toNat ∧ i = b.toNat ∧ d = false) ∧
      (b.toNat = 0 ∧ 0 < a.toNat ∧ a.toNat ≤ 31 → p = a.toNat ∧ i = 31 - a.toNat ∧ d = false) ∧
      (0 < a.toNat ∧ 0 < b.toNat ∧ a.toNat + b.toNat ≤ 31 → p = a.toNat ∧ i = b.toNat ∧ d = false)

/-- FXP_F2Q: a NaN raises INVALID_FLOAT; an infinity gives the end of the clamp range; a finite float,
`n * 2^-149`, is clamped to `[-(2^I), 2^I - 1]`, scaled by `2^P` and rounded toward zero, and that value is
the result itself, never saturated (rule R102). The float's value is `f32Decode`, the model's reading of
binary32 (log 13). -/
def Obligations.FxpF2qResult : Prop :=
  ∀ (s : State) (f : Fmt) (a : Word), f.Legal → s.opa = some a →
    (f32Decode a = .nan → exec (.fxpF2q f) s = .next (s.faultedWith 0x13#8)) ∧
    (f32Decode a = .inf false → ∃ r, exec (.fxpF2q f) s = .next (s.afterFxp r false) ∧
      r.toInt = (2 ^ f.fi.toNat - 1) * 2 ^ f.fp.toNat) ∧
    (f32Decode a = .inf true → ∃ r, exec (.fxpF2q f) s = .next (s.afterFxp r false) ∧
      r.toInt = -2 ^ f.fi.toNat * 2 ^ f.fp.toNat) ∧
    (∀ n, f32Decode a = .finite n → ∃ r, exec (.fxpF2q f) s = .next (s.afterFxp r false) ∧
      RoundedToZero r.toInt
        (max (-2 ^ f.fi.toNat * 2 ^ 149) (min ((2 ^ f.fi.toNat - 1) * 2 ^ 149) n) * 2 ^ f.fp.toNat) (2 ^ 149))

/-- FXP_Q2F answers the finite binary32 value nearest `a / 2^P`; where another is as near, the answer's
significand is even; 0 gives +0.0 (rules R10, R103). Values are `f32Decode`'s, the model's reading of
binary32 (log 13). -/
def Obligations.FxpQ2fResult : Prop :=
  ∀ (s : State) (f : Fmt) (a : Word), f.Legal → s.opa = some a →
    ∃ (r : Word) (g : Int), exec (.fxpQ2f f) s = .next (s.afterFxp r false) ∧ f32Decode r = .finite g ∧
      (∀ (w : Word) (h : Int), f32Decode w = .finite h →
        |g * 2 ^ f.fp.toNat - a.toInt * 2 ^ 149| ≤ |h * 2 ^ f.fp.toNat - a.toInt * 2 ^ 149|) ∧
      (∀ (w : Word) (h : Int), f32Decode w = .finite h → h ≠ g →
        |h * 2 ^ f.fp.toNat - a.toInt * 2 ^ 149| = |g * 2 ^ f.fp.toNat - a.toInt * 2 ^ 149| →
        r.getLsbD 0 = false) ∧
      (a = 0#32 → r = 0#32)

/-- The layout of binary32 that `f32Decode` reads: sign, exponent with bias 127, fraction; values in units of
`2^-149` (log 13: the model's choice, PRESUMED from IEEE 754, which the spec names but does not lay out). -/
def Obligations.BinaryFloatLayout : Prop :=
  ∀ (sg : BitVec 1) (e : BitVec 8) (fr : BitVec 23),
    (e = 255#8 ∧ fr = 0#23 → f32Decode (sg ++ e ++ fr) = .inf (sg == 1#1)) ∧
    (e = 255#8 ∧ fr ≠ 0#23 → f32Decode (sg ++ e ++ fr) = .nan) ∧
    (e = 0#8 → f32Decode (sg ++ e ++ fr) = .finite ((-1) ^ sg.toNat * fr.toNat)) ∧
    (e ≠ 0#8 ∧ e ≠ 255#8 →
      f32Decode (sg ++ e ++ fr) = .finite ((-1) ^ sg.toNat * ((2 ^ 23 + fr.toNat) * 2 ^ (e.toNat - 1))))

/-- FXP_F2Q then FXP_Q2F with the same format returns a float within one unit `2^-P` of any float in the
clamp range (95_test_vectors.md property P1, 90_conflicts.md C5). Floats are read by `f32Decode`, the model's
reading of binary32 (log 13, PRESUMED). -/
def Obligations.FloatRoundTripWithinOneUnit : Prop :=
  ∀ (s : State) (f : Fmt) (w : Word) (n : Int), f.Legal → s.opa = some w → f32Decode w = .finite n →
    -2 ^ f.fi.toNat * 2 ^ 149 ≤ n → n ≤ (2 ^ f.fi.toNat - 1) * 2 ^ 149 →
    ∃ (q r : Word) (g : Int), exec (.fxpF2q f) s = .next (s.afterFxp q false) ∧
      exec (.fxpQ2f f) { s.afterFxp q false with opa := some q } =
        .next { s.afterFxp r false with opa := some q } ∧
      f32Decode r = .finite g ∧ |g - n| * 2 ^ f.fp.toNat ≤ 2 ^ 149

/-- FXP_I2Q answers `a * 2^P`, saturated; FXP_Q2I the greatest integer not above `a / 2^P`, which always
fits; FXP_ONE `2^P`, saturated, whatever the operands (rules R104, R105, R110). Their words and the checks before the rule are stated
too. -/
def Obligations.FxpIntegerConversionResults : Prop :=
  (∀ f : Fmt,
    (Instr.fxpI2q f).EncodedAndChecked (0x10000000 + f.fp.toNat * 2 ^ 21 + f.fi.toNat * 2 ^ 16) ∧
    (Instr.fxpQ2i f).EncodedAndChecked (0x14000000 + f.fp.toNat * 2 ^ 21 + f.fi.toNat * 2 ^ 16) ∧
    (Instr.fxpOne f).EncodedAndChecked (0x28000000 + f.fp.toNat * 2 ^ 21 + f.fi.toNat * 2 ^ 16)) ∧
  ∀ (s : State) (f : Fmt), f.Legal →
    (∀ a, s.opa = some a →
      ∃ r, exec (.fxpI2q f) s = .next (s.afterFxp r false) ∧ Clamped (a.toInt * 2 ^ f.fp.toNat) r) ∧
    (∀ a, s.opa = some a →
      ∃ r, exec (.fxpQ2i f) s = .next (s.afterFxp r false) ∧
        r.toInt * 2 ^ f.fp.toNat ≤ a.toInt ∧ a.toInt < (r.toInt + 1) * 2 ^ f.fp.toNat) ∧
    (∃ r, exec (.fxpOne f) s = .next (s.afterFxp r false) ∧ Clamped (2 ^ f.fp.toNat) r)

/-- FXP_ADD and FXP_SUB: the exact sum and difference, saturated (rules R106, R107). Their words and the checks before the rule are stated
too. -/
def Obligations.FxpAddSubResult : Prop :=
  Instr.fxpAdd.EncodedAndChecked 0x18000000 ∧ Instr.fxpSub.EncodedAndChecked 0x1C000000 ∧
  ∀ (s : State) (a b : Word), s.opa = some a → s.opb = some b →
    (∃ r, exec .fxpAdd s = .next (s.afterFxp r false) ∧ Clamped (a.toInt + b.toInt) r) ∧
    (∃ r, exec .fxpSub s = .next (s.afterFxp r false) ∧ Clamped (a.toInt - b.toInt) r)

/-- FXP_MUL: the greatest integer not above `a * b / 2^P`, saturated (rule R108). Its word and the checks before the rule are stated
too. -/
def Obligations.FxpMulResult : Prop :=
  (∀ f : Fmt,
    (Instr.fxpMul f).EncodedAndChecked (0x20000000 + f.fp.toNat * 2 ^ 21 + f.fi.toNat * 2 ^ 16)) ∧
  ∀ (s : State) (f : Fmt) (a b : Word), f.Legal → s.opa = some a → s.opb = some b →
    ∃ (q : Int) (r : Word), exec (.fxpMul f) s = .next (s.afterFxp r false) ∧
      q * 2 ^ f.fp.toNat ≤ a.toInt * b.toInt ∧ a.toInt * b.toInt < (q + 1) * 2 ^ f.fp.toNat ∧ Clamped q r

/-- FXP_DIV: `a * 2^P / b` rounded toward zero, saturated; a zero divisor raises DIVISION_BY_ZERO (rule
R109). Its word and the checks before the rule are stated
too. -/
def Obligations.FxpDivResult : Prop :=
  (∀ f : Fmt,
    (Instr.fxpDiv f).EncodedAndChecked (0x24000000 + f.fp.toNat * 2 ^ 21 + f.fi.toNat * 2 ^ 16)) ∧
  ∀ (s : State) (f : Fmt) (a b : Word), f.Legal → s.opa = some a → s.opb = some b →
    (b = 0#32 → exec (.fxpDiv f) s = .next (s.faultedWith 0x12#8)) ∧
    (b ≠ 0#32 → ∃ (q : Int) (r : Word), exec (.fxpDiv f) s = .next (s.afterFxp r false) ∧
      RoundedToZero q (a.toInt * 2 ^ f.fp.toNat) b.toInt ∧ Clamped q r)

/-! ### Running mean -/

/-- MEAN_INIT configures and clears the accumulator it selects and keeps of the format only P; MEAN_RESET
clears SUM and INDEX of a valid one and keeps the rest; neither writes RES or RESH (rules R141, R144). Their words and the checks before the rule are stated
too. -/
def Obligations.MeanInitAndResetResults : Prop :=
  (∀ (f : Fmt) (m : BitVec 8), (Instr.meanInit f m).EncodedAndChecked
    (0x40000000 + f.fp.toNat * 2 ^ 21 + f.fi.toNat * 2 ^ 16 + m.toNat * 2 ^ 8)) ∧
  (∀ m : BitVec 8, (Instr.meanReset m).EncodedAndChecked (0x48000000 + m.toNat * 2 ^ 8)) ∧
  ∀ (s : State) (m : BitVec 8), s.mean.length = s.cfg.meanCount → m.toNat < s.cfg.meanCount →
    (∀ (f : Fmt) (a : Word), f.Legal → s.opa = some a →
      ∃ t, exec (.meanInit f m) s = .next t ∧
        t = { s with mean := t.mean, status := s.status.ended 0x00#8 false } ∧
        t.meanAt m.toNat = ⟨0#64, 0#32, a, f.fp, true⟩ ∧ ∀ k, k ≠ m.toNat → t.meanAt k = s.meanAt k) ∧
    ((s.meanAt m.toNat).valid = true →
      ∃ t, exec (.meanReset m) s = .next t ∧
        t = { s with mean := t.mean, status := s.status.ended 0x00#8 false } ∧
        t.meanAt m.toNat = ⟨0#64, 0#32, (s.meanAt m.toNat).maxSize, (s.meanAt m.toNat).prec, true⟩ ∧
        ∀ k, k ≠ m.toNat → t.meanAt k = s.meanAt k)

/-- MEAN_ADD: the sum takes the sample (modulo `2^64`) exactly when INDEX < MAXSIZE, INDEX counts it in any
case and wraps, RESH:RES is the sum after it, nothing else changes (rules R142, R143). Its word and the checks before the rule are stated
too. -/
def Obligations.MeanAddResult : Prop :=
  (∀ m : BitVec 8, (Instr.meanAdd m).EncodedAndChecked (0x44000000 + m.toNat * 2 ^ 8)) ∧
  ∀ (s : State) (m : BitVec 8) (v : Word), m.toNat < s.cfg.meanCount →
    (s.meanAt m.toNat).valid = true → s.opa = some v →
    ∃ (t : State) (lo hi : Word), exec (.meanAdd m) s = .next t ∧
      t = { s with mean := t.mean, res := some lo, resh := some hi, status := s.status.ended 0x00#8 false } ∧
      hi ++ lo = (t.meanAt m.toNat).sum ∧
      ((s.meanAt m.toNat).index.toNat < (s.meanAt m.toNat).maxSize.toNat →
        (t.meanAt m.toNat).sum = (s.meanAt m.toNat).sum + v.signExtend 64) ∧
      (¬ (s.meanAt m.toNat).index.toNat < (s.meanAt m.toNat).maxSize.toNat →
        (t.meanAt m.toNat).sum = (s.meanAt m.toNat).sum) ∧
      t.meanAt m.toNat = { s.meanAt m.toNat with
        sum := (t.meanAt m.toNat).sum, index := (s.meanAt m.toNat).index + 1#32 } ∧
      ∀ k, k ≠ m.toNat → t.meanAt k = s.meanAt k

/-- MEAN_CALC: SUM divided by the override, or by MAXSIZE when the override is 0, rounded toward zero and
saturated; a zero divisor raises DIVISION_BY_ZERO; no accumulator changes (rule R145). Its word and the checks before the rule are stated
too. -/
def Obligations.MeanCalcResult : Prop :=
  (∀ m : BitVec 8, (Instr.meanCalc m).EncodedAndChecked (0x4C000000 + m.toNat * 2 ^ 8)) ∧
  ∀ (s : State) (m : BitVec 8) (v : Word) (n : Nat), m.toNat < s.cfg.meanCount →
    (s.meanAt m.toNat).valid = true → s.opa = some v →
    (v = 0#32 → n = (s.meanAt m.toNat).maxSize.toNat) → (v ≠ 0#32 → n = v.toNat) →
    (n = 0 → exec (.meanCalc m) s = .next (s.faultedWith 0x12#8)) ∧
    (n ≠ 0 → ∃ (q : Int) (r : Word),
      exec (.meanCalc m) s = .next { s with res := some r, status := s.status.ended 0x00#8 false } ∧
      RoundedToZero q (s.meanAt m.toNat).sum.toInt n ∧ Clamped q r)

/-- MEAN_CALC twice in a row answers the same and leaves the same state (rule R146, DOC's property 3). -/
def Obligations.MeanCalcTwiceIsOnce : Prop :=
  ∀ (m : BitVec 8) (s t : State), exec (.meanCalc m) s = .next t → exec (.meanCalc m) t = .next t

/-- A window of samples: after MEAN_ADD of every sample of a list (fewer than `2^32`) to a cleared
accumulator, SUM is the exact sum of the first MAXSIZE of them and INDEX counts them all (rules R142, R146,
R147). -/
def Obligations.MeanWindowSumsFirstSamples : Prop :=
  ∀ (s : State) (m : BitVec 8) (vs : List Word), m.toNat < s.cfg.meanCount →
    (s.meanAt m.toNat).valid = true → (s.meanAt m.toNat).sum = 0#64 → (s.meanAt m.toNat).index = 0#32 →
    vs.length < 2 ^ 32 →
    ∃ t, addSamples m vs s = .next t ∧
      (t.meanAt m.toNat).sum.toInt =
        ((vs.take (s.meanAt m.toNat).maxSize.toNat).map (fun v => v.toInt)).sum ∧
      (t.meanAt m.toNat).index.toNat = vs.length

/-! ### RDO engines -/

/-- RDO_INIT: offset 0, enabled, valid, rollover the target or 15; reserved bits of OPA raise
ILLEGAL_OPERAND (rule R161). Its word and the checks before the rule are stated
too. -/
def Obligations.RdoInitResult : Prop :=
  (∀ e : BitVec 8, (Instr.rdoInit e).EncodedAndChecked (0xA0000000 + e.toNat * 2 ^ 8)) ∧
  ∀ (s : State) (e : BitVec 8) (a : Word), s.rdo.length = s.cfg.rdoCount → e.toNat < s.cfg.rdoCount →
    s.opa = some a →
    (2 ^ 16 ≤ a.toNat → exec (.rdoInit e) s = .next (s.faultedWith 0x1B#8)) ∧
    (a.toNat < 2 ^ 16 → ∃ t, exec (.rdoInit e) s = .next t ∧
      t = { s with rdo := t.rdo, status := s.status.ended 0x00#8 false } ∧
      (t.rdoAt e.toNat).offset = 0#16 ∧ (t.rdoAt e.toNat).enabled = true ∧
      (t.rdoAt e.toNat).valid = true ∧
      (t.rdoAt e.toNat).rollover.toNat = (if a.toNat = 0 then 15 else a.toNat) ∧
      ∀ k, k ≠ e.toNat → t.rdoAt k = s.rdoAt k)

/-- RDO_ADVANCE: the offset plus one, formed exactly, modulo the rollover, whatever ENABLED is; the result is
below the rollover (rules R162, R163, R168). Its word and the checks before the rule are stated
too. -/
def Obligations.RdoAdvanceResult : Prop :=
  (∀ e : BitVec 8, (Instr.rdoAdvance e).EncodedAndChecked (0xA4000000 + e.toNat * 2 ^ 8)) ∧
  ∀ (s : State) (e : BitVec 8), e.toNat < s.cfg.rdoCount → (s.rdoAt e.toNat).valid = true →
    (s.rdoAt e.toNat).rollover ≠ 0#16 →
    ∃ t, exec (.rdoAdvance e) s = .next t ∧
      t = { s with rdo := t.rdo, status := s.status.ended 0x00#8 false } ∧
      (t.rdoAt e.toNat).offset.toNat =
        ((s.rdoAt e.toNat).offset.toNat + 1) % (s.rdoAt e.toNat).rollover.toNat ∧
      (t.rdoAt e.toNat).offset.toNat < (s.rdoAt e.toNat).rollover.toNat ∧
      t.rdoAt e.toNat = { s.rdoAt e.toNat with offset := (t.rdoAt e.toNat).offset } ∧
      ∀ k, k ≠ e.toNat → t.rdoAt k = s.rdoAt k

/-- RDO_GET: the offset of an enabled engine, 0 from a disabled one; no engine changes (rule R164). Its word and the checks before the rule are stated
too. -/
def Obligations.RdoGetResult : Prop :=
  (∀ e : BitVec 8, (Instr.rdoGet e).EncodedAndChecked (0xA8000000 + e.toNat * 2 ^ 8)) ∧
  ∀ (s : State) (e : BitVec 8), e.toNat < s.cfg.rdoCount → (s.rdoAt e.toNat).valid = true →
    ∃ r : Word, exec (.rdoGet e) s =
        .next { s with res := some r, status := s.status.ended 0x00#8 false } ∧
      ((s.rdoAt e.toNat).enabled = true → r.toNat = (s.rdoAt e.toNat).offset.toNat) ∧
      ((s.rdoAt e.toNat).enabled = false → r = 0#32)

/-- RDO_ENABLE sets ENABLED from OPA[0] and nothing else; reserved bits of OPA raise ILLEGAL_OPERAND (rule
R165). Its word and the checks before the rule are stated
too. -/
def Obligations.RdoEnableResult : Prop :=
  (∀ e : BitVec 8, (Instr.rdoEnable e).EncodedAndChecked (0xAC000000 + e.toNat * 2 ^ 8)) ∧
  ∀ (s : State) (e : BitVec 8) (a : Word), e.toNat < s.cfg.rdoCount → (s.rdoAt e.toNat).valid = true →
    s.opa = some a →
    (2 ≤ a.toNat → exec (.rdoEnable e) s = .next (s.faultedWith 0x1B#8)) ∧
    (a.toNat < 2 → ∃ t, exec (.rdoEnable e) s = .next t ∧
      t = { s with rdo := t.rdo, status := s.status.ended 0x00#8 false } ∧
      t.rdoAt e.toNat = { s.rdoAt e.toNat with enabled := decide (a.toNat = 1) } ∧
      ∀ k, k ≠ e.toNat → t.rdoAt k = s.rdoAt k)

/-- The rollover sequence (rule R169, DOC's property 5): after RDO_INIT with target `n` advances leave the
offset `n mod rollover`, for every number of advances, rollover 15 for target 0. -/
def Obligations.RdoRolloverSequence : Prop :=
  ∀ (s : State) (e : BitVec 8) (a : Word) (n : Nat), s.rdo.length = s.cfg.rdoCount →
    e.toNat < s.cfg.rdoCount → s.opa = some a → a.toNat < 2 ^ 16 →
    ∃ t, execAll (.rdoInit e :: List.replicate n (.rdoAdvance e)) s = .next t ∧
      (t.rdoAt e.toNat).offset.toNat = n % (if a.toNat = 0 then 15 else a.toNat)

/-! ### Multiplexer -/

/-- MUX_INIT: a maximum above FB_BYTES raises BAD_CONFIG, any other creates the empty table (rule R181). Its word and the checks before the rule are stated
too. -/
def Obligations.MuxInitResult : Prop :=
  Instr.muxInit.EncodedAndChecked 0x80000000 ∧
  ∀ (s : State) (a : Word), s.cfg.Legal → s.muxState = .unconfigured → s.opa = some a →
    (s.cfg.fbBytes < a.toNat → exec .muxInit s = .next (s.faultedWith 0x18#8)) ∧
    (a.toNat ≤ s.cfg.fbBytes → ∃ mb : Half, mb.toNat = a.toNat ∧
      exec .muxInit s = .next { s with
        muxState := .configured, muxCount := 0#6, muxOffset := 0#16, muxMaxbuf := mb,
        status := s.status.ended 0x00#8 false })

/-- MUX_ADD: a full table answers TOO_MANY_PROTOCOLS, else a slot that does not fit answers NO_MORE_SPACE,
both with the table unchanged; else the descriptor is appended at MUX_OFFSET (rules R183, R184). Its word and the checks before the rule are stated
too. -/
def Obligations.MuxAddResult : Prop :=
  Instr.muxAdd.EncodedAndChecked 0x84000000 ∧
  ∀ (s : State) (inst : Word) (size : Half) (snd rcv : Byte), s.TableInv → s.muxState ≠ .unconfigured →
    s.opa = some inst → s.opb = some (rcv ++ snd ++ size) →
    (s.muxCount.toNat = s.cfg.muxMaxSlots →
      exec .muxAdd s = .next { s with status := s.status.ended 0x01#8 false }) ∧
    (s.muxCount.toNat ≠ s.cfg.muxMaxSlots → s.muxMaxbuf.toNat < s.muxOffset.toNat + size.toNat →
      exec .muxAdd s = .next { s with status := s.status.ended 0x02#8 false }) ∧
    (s.muxCount.toNat ≠ s.cfg.muxMaxSlots → s.muxOffset.toNat + size.toNat ≤ s.muxMaxbuf.toNat →
      ∃ t, exec .muxAdd s = .next t ∧
        t = { s with slots := t.slots, muxCount := t.muxCount, muxOffset := t.muxOffset, muxState := .built,
                     status := s.status.ended 0x00#8 false } ∧
        t.slotAt s.muxCount.toNat = ⟨inst, size, s.muxOffset, snd, rcv⟩ ∧
        (∀ i, i ≠ s.muxCount.toNat → t.slotAt i = s.slotAt i) ∧
        t.muxCount.toNat = s.muxCount.toNat + 1 ∧
        t.muxOffset.toNat = s.muxOffset.toNat + size.toNat)

/-- Layout determinism (rules R184, R196, DOC's property 7): slots added to an empty table whose sizes fit
stand in the order of the adds, each at the sum of the sizes before it, and MUX_OFFSET is their total. -/
def Obligations.AddsLayOutTheFrame : Prop :=
  ∀ (s : State) (ops : List (Word × Word)), s.TableInv → s.muxState = .configured →
    ops.length ≤ s.cfg.muxMaxSlots →
    (ops.map (fun p => p.2.toNat % 2 ^ 16)).sum ≤ s.muxMaxbuf.toNat →
    ∃ t, addSlots ops s = .next t ∧ t.muxCount.toNat = ops.length ∧
      t.muxOffset.toNat = (ops.map (fun p => p.2.toNat % 2 ^ 16)).sum ∧
      ∀ i p, ops[i]? = some p →
        (t.slotAt i).inst = p.1 ∧ (t.slotAt i).size.toNat = p.2.toNat % 2 ^ 16 ∧
        (t.slotAt i).send.toNat = p.2.toNat / 2 ^ 16 % 2 ^ 8 ∧ (t.slotAt i).recv.toNat = p.2.toNat / 2 ^ 24 ∧
        (t.slotAt i).index.toNat = ((ops.take i).map (fun q => q.2.toNat % 2 ^ 16)).sum

/-- MUX_SEND completes when every slot's send handler is bound and the external clients answer: RES is the
total, the SendReqs are issued in slot order, every answer is taken, nothing but RES, STATUS, FB and engines
changes (rules R186, R191, R193). -/
def Obligations.MuxSendCompletes : Prop :=
  ∀ (s : State) (bss : List (List Byte)) (rest : List ClientRsp), s.TableInv →
    s.muxState ≠ .unconfigured → s.busy = none → sendBound s →
    answersFit (sendClients s.cfg s.registered) bss → s.clients = bss.map .sendRsp ++ rest →
    ∃ t, exec .muxSend s = .next t ∧
      t = { s with res := some (s.muxOffset.setWidth 32), status := s.status.ended 0x00#8 false,
                   clients := rest,
                   requests := s.requests ++ (sendClients s.cfg s.registered).map sendReqOf,
                   fb := t.fb, rdo := t.rdo }

/-- The bytes an external client answers stand in its slot's window after MUX_SEND (rules R72, R191). -/
def Obligations.MuxSendWritesAnswers : Prop :=
  ∀ (s t : State) (bss : List (List Byte)) (rest : List ClientRsp), s.TableInv →
    s.muxState ≠ .unconfigured → sendBound s →
    answersFit (sendClients s.cfg s.registered) bss → s.clients = bss.map .sendRsp ++ rest →
    exec .muxSend s = .next t →
    ∀ (k : Nat) (d : Slot) (bs : List Byte), (sendClients s.cfg s.registered)[k]? = some d → bss[k]? = some bs →
      ∀ j, j < bs.length → Memory.read t.fb (d.index.toNat + j) = bs[j]?

/-- MUX_SEND and the engines: an engine advances once for each port-1 slot that names it, whatever ENABLED
is; every port-1 slot carries, big-endian, its engine's offset after the slot's own advance, and the last
slot of an engine so carries the offset the engine is left with (rules R162, R166). -/
def Obligations.MuxSendWritesEngineOffsets : Prop :=
  ∀ (s t : State) (bss : List (List Byte)) (rest : List ClientRsp), s.TableInv → s.EngineInv →
    s.muxState ≠ .unconfigured → sendBound s →
    answersFit (sendClients s.cfg s.registered) bss → s.clients = bss.map .sendRsp ++ rest →
    exec .muxSend s = .next t →
    (∀ e n, s.registered.countP (fun d => decide (d.send = 1#8 ∧ d.inst.toNat = e)) = n →
      t.rdoAt e = { s.rdoAt e with offset := (t.rdoAt e).offset } ∧
      (n = 0 → t.rdoAt e = s.rdoAt e) ∧
      (n ≠ 0 → (t.rdoAt e).offset.toNat = ((s.rdoAt e).offset.toNat + n) % (s.rdoAt e).rollover.toNat)) ∧
    (∀ i, i < s.muxCount.toNat → (s.slotAt i).send = 1#8 →
      ∃ hi lo : Byte, (hi ++ lo).toNat = s.sentOffset i ∧
        Memory.read t.fb (s.slotAt i).index.toNat = some hi ∧
        Memory.read t.fb ((s.slotAt i).index.toNat + 1) = some lo) ∧
    (∀ i, i < s.muxCount.toNat → (s.slotAt i).send = 1#8 →
      (∀ j, i < j → j < s.muxCount.toNat → (s.slotAt j).send = 1#8 → (s.slotAt j).inst ≠ (s.slotAt i).inst) →
      ∃ hi lo : Byte, hi ++ lo = (t.rdoAt (s.slotAt i).inst.toNat).offset ∧
        Memory.read t.fb (s.slotAt i).index.toNat = some hi ∧
        Memory.read t.fb ((s.slotAt i).index.toNat + 1) = some lo)

/-- MUX_SEND, however it ends, writes no byte outside the windows of the registered slots (rules R72,
R186). -/
def Obligations.MuxSendStaysInWindows : Prop :=
  ∀ (s t : State), exec .muxSend s = .next t →
    ∀ a, (∀ i, i < s.muxCount.toNat →
        ¬ ((s.slotAt i).index.toNat ≤ a ∧ a < (s.slotAt i).index.toNat + (s.slotAt i).size.toNat)) →
      Memory.read t.fb a = Memory.read s.fb a

/-- MUX_RECV completes when every slot's receive handler is bound, the frame is written and long enough and
the external clients acknowledge: each external client is passed exactly its window's bytes, in slot order;
FB and RES do not change (rules R188, R192, R193). -/
def Obligations.MuxRecvCompletes : Prop :=
  ∀ (s : State) (len : Word) (rest : List ClientRsp), s.TableInv → s.muxState ≠ .unconfigured →
    s.busy = none → recvBound s → s.opa = some len → s.muxOffset.toNat ≤ len.toNat →
    (∀ a, a < s.muxOffset.toNat → Memory.read s.fb a ≠ none) →
    s.clients = List.replicate (recvClients s.cfg s.registered).length .recvAck ++ rest →
    ∃ (t : State) (bss : List (List Byte)), exec .muxRecv s = .next t ∧
      t = { s with status := s.status.ended 0x00#8 false, clients := rest, rdo := t.rdo,
                   requests := s.requests ++ List.zipWith recvReqOf (recvClients s.cfg s.registered) bss } ∧
      answersFit (recvClients s.cfg s.registered) bss ∧
      ∀ (k : Nat) (d : Slot) (bs : List Byte), (recvClients s.cfg s.registered)[k]? = some d → bss[k]? = some bs →
        ∀ j, j < bs.length → bs[j]? = Memory.read s.fb (d.index.toNat + j)

/-- MUX_RECV and the engines: the last port-1 slot that names an engine leaves its two bytes, big-endian, as
the engine's offset, not reduced; the engine's other fields and the other engines are as before (rules R167,
R168). -/
def Obligations.MuxRecvStoresOffsets : Prop :=
  ∀ (s t : State), s.TableInv → exec .muxRecv s = .next t → t.busy = none → t.status.code = 0x00#8 →
    (∀ e, t.rdoAt e = { s.rdoAt e with offset := (t.rdoAt e).offset }) ∧
    (∀ e, (∀ d ∈ s.registered, d.recv = 1#8 → d.inst.toNat ≠ e) → t.rdoAt e = s.rdoAt e) ∧
    (∀ i, i < s.muxCount.toNat → (s.slotAt i).recv = 1#8 →
      (∀ j, i < j → j < s.muxCount.toNat → (s.slotAt j).recv = 1#8 → (s.slotAt j).inst ≠ (s.slotAt i).inst) →
      ∃ hi lo : Byte, hi ++ lo = (t.rdoAt (s.slotAt i).inst.toNat).offset ∧
        Memory.read s.fb (s.slotAt i).index.toNat = some hi ∧
        Memory.read s.fb ((s.slotAt i).index.toNat + 1) = some lo)

/-- Round trip (rule R197, DOC's property 8), for every slot, whatever its two handlers: MUX_SEND and then
MUX_RECV of the whole frame passes each slot's receive handler the bytes the slot's send handler produced,
`pss`, one list for each slot. They are the client's answer where the send handler is an external port, and
the engine's offset after the slot's own advance, big-endian, where it is port 1. An external receive handler
is passed them in its RecvReq; an engine holds those of the last slot it receives. Nothing but STATUS, the
engines and the clients' lists changes in the receive, and where every slot has the same port for both,
every engine stays as the send left it. -/
def Obligations.FrameRoundTrip : Prop :=
  ∀ (s t : State) (bss : List (List Byte)) (rest : List ClientRsp), s.TableInv →
    s.muxState ≠ .unconfigured → s.busy = none → sendBound s → recvBound s →
    answersFit (sendClients s.cfg s.registered) bss →
    s.clients = bss.map .sendRsp ++
      (List.replicate (recvClients s.cfg s.registered).length .recvAck ++ rest) →
    exec .muxSend s = .next t →
    ∃ (v : State) (pss : List (List Byte)),
      exec .muxRecv { t with opa := some (t.muxOffset.setWidth 32) } = .next v ∧
      v = { t with
        opa := some (t.muxOffset.setWidth 32), status := s.status.ended 0x00#8 false, clients := rest,
        rdo := v.rdo,
        requests := t.requests ++ ((s.registered.zip pss).filter fun z => decide (z.1.recv ≠ 1#8)).map
          fun z => recvReqOf z.1 z.2 } ∧
      v.busy = none ∧ answersFit s.registered pss ∧
      ((s.registered.zip pss).filter fun z => decide (z.1.send ≠ 1#8)).map (fun z => z.2) = bss ∧
      (∀ (k : Nat) (d : Slot) (ps : List Byte), s.registered[k]? = some d → pss[k]? = some ps →
        (s.EngineInv → d.send = 1#8 → ∃ hi lo : Byte, ps = [hi, lo] ∧ (hi ++ lo).toNat = s.sentOffset k) ∧
        (d.recv = 1#8 →
          (∀ (j : Nat) (d' : Slot), k < j → s.registered[j]? = some d' → d'.recv = 1#8 → d'.inst ≠ d.inst) →
          ∃ hi lo : Byte, ps = [hi, lo] ∧ (v.rdoAt d.inst.toNat).offset = hi ++ lo)) ∧
      ((∀ d ∈ s.registered, d.recv = d.send) → v.rdo = t.rdo)

/-- MUX_RECV of a frame shorter than MUX_OFFSET raises SHORT_FRAME before any dispatch (rule R188). Then, when
a dispatch faults, with which code, and that it changes nothing (rules R166, R167, R190 to R192): an unbound handler; on port 1 an engine that does not exist, is not valid, or a slot not of size 2; on
receive an unwritten byte in the window. -/
def Obligations.ReceiveAndDispatchFaults : Prop :=
  ∀ (s : State) (i : Nat),
    (∀ len, s.muxState ≠ .unconfigured → s.opa = some len → len.toNat < s.muxOffset.toNat →
      exec .muxRecv s = .next (s.faultedWith 0x19#8)) ∧
    ((s.slotAt i).send ≠ 1#8 ∧ ¬ isExternal s.cfg (s.slotAt i).send →
      sendDispatch i s = .stop .unboundHandler s) ∧
    ((s.slotAt i).recv ≠ 1#8 ∧ ¬ isExternal s.cfg (s.slotAt i).recv →
      recvDispatch i s = .stop .unboundHandler s) ∧
    (∀ c, ((s.cfg.rdoCount ≤ (s.slotAt i).inst.toNat ∧ c = .unboundHandler) ∨
        ((s.slotAt i).inst.toNat < s.cfg.rdoCount ∧ (s.rdoAt (s.slotAt i).inst.toNat).valid = false ∧
          c = .notInitialised) ∨
        ((s.slotAt i).inst.toNat < s.cfg.rdoCount ∧ (s.rdoAt (s.slotAt i).inst.toNat).valid = true ∧
          (s.slotAt i).size ≠ 2#16 ∧ c = .sizeMismatch)) →
      ((s.slotAt i).send = 1#8 → sendDispatch i s = .stop c s) ∧
      ((s.slotAt i).recv = 1#8 → recvDispatch i s = .stop c s)) ∧
    ((∃ a, (s.slotAt i).index.toNat ≤ a ∧ a < (s.slotAt i).index.toNat + (s.slotAt i).size.toNat ∧
        Memory.read s.fb a = none) →
      ((s.slotAt i).recv ≠ 1#8 ∧ isExternal s.cfg (s.slotAt i).recv) ∨
        ((s.slotAt i).recv = 1#8 ∧ engineReady s (s.slotAt i)) →
      recvDispatch i s = .stop .unwrittenRead s)

/-- A fault at the dispatch of slot `i` stops MUX_SEND or MUX_RECV there: the effects of the dispatches
before it stay, RES is not written, the fault is recorded (rules R194, R214). -/
def Obligations.DispatchFaultKeepsEarlierSlots : Prop :=
  ∀ (s u v : State) (i : Nat) (c : FaultCode), s.muxState ≠ .unconfigured → i < s.muxCount.toNat →
    (walkSlots sendDispatch i 0 s = .done u → sendDispatch i u = .stop c v →
      exec .muxSend s = .next { u with busy := none, status := s.status.faulted c.byte } ∧ u.res = s.res) ∧
    (∀ len, s.opa = some len → s.muxOffset.toNat ≤ len.toNat →
      walkSlots recvDispatch i 0 s = .done u → recvDispatch i u = .stop c v →
      exec .muxRecv s = .next { u with busy := none, status := s.status.faulted c.byte } ∧ u.res = s.res)

/-- Waiting, then the answers: when MUX_SEND or MUX_RECV waits and answers come later, the next step ends in
the same state as the command would have with those answers there at once (rules R6, R193). That the wait is
a state which a later step resumes is log 7 (DEDUCED). -/
def Obligations.WaitingThenAnswersEqualsAtOnce : Prop :=
  ∀ (i : Instr) (s t : State) (later : List ClientRsp), i = .muxSend ∨ i = .muxRecv → s.busy = none →
    (∀ rest, s.bus ≠ .reset :: rest) → exec i s = .next t → t.busy ≠ none →
    step { t with clients := t.clients ++ later } = exec i { s with clients := s.clients ++ later }

/-- Only MUX_SEND and MUX_RECV can fail to end, at a slot whose external client has not given the answer
awaited; the block then stays as it is, takes no host access and records no fault (rule R222). A client whose
next answer is of the wrong kind or length counts as one that has not answered: that is the model's choice
(log 6, DESIGN CHOICE); rule R222 itself speaks only of a client that never sends. -/
def Obligations.StuckOnlyOnSilentClient : Prop :=
  (∀ (i : Instr) (s t : State) (k : Nat), s.busy = none → exec i s = .next t →
    (t.busy = some (.sendRsp k) → i = .muxSend ∧ k < s.muxCount.toNat ∧
      ∀ bs rest, t.clients = .sendRsp bs :: rest → bs.length ≠ (t.slotAt k).size.toNat) ∧
    (t.busy = some (.recvAck k) → i = .muxRecv ∧ k < s.muxCount.toNat ∧
      ∀ rest, t.clients ≠ .recvAck :: rest)) ∧
  (∀ (s : State) (k : Nat), (∀ rest, s.bus ≠ .reset :: rest) →
    (s.busy = some (.sendRsp k) →
      (∀ bs rest, s.clients = .sendRsp bs :: rest → bs.length ≠ (s.slotAt k).size.toNat) →
      step s = .next s) ∧
    (s.busy = some (.recvAck k) → (∀ rest, s.clients ≠ .recvAck :: rest) → step s = .next s))

/-! ### Host accesses -/

/-- A 32-bit read of a register returns its contents and changes nothing else; of an unwritten one it returns
0 and raises UNWRITTEN_READ (rules R22, R36, R69). PackedRegisterLayout says at which offset each register
stands and what it holds. -/
def Obligations.RegisterReadReturnsContents : Prop :=
  ∀ (s : State) (r : Reg) (rest : List Event), s.cfg.Legal → r.Exists s.cfg → s.busy = none →
    s.bus = .read (s.cfg.fxmuxBase + r.offset) 32 :: rest →
    (∀ v, regRead s r = some v → step s = .next { s with bus := rest, reply := some v }) ∧
    (regRead s r = none →
      step s = .next { s with bus := rest, reply := some 0#32, status := s.status.busFaulted 0x1E#8 })

/-- The register map (rules R24, R25, R27, R29, R36): the offset of every register as a number, and what a read
of it gives, in every state. CMD reads 0; OPA, OPB, RES and RESH read as what they hold, or have no value;
MUX_STATE reads 0, 1 or 2; the packed registers are laid out as the rules say, every bit not listed 0. -/
def Obligations.PackedRegisterLayout : Prop :=
  ∀ s : State,
    (Reg.cmd.offset = 0x000 ∧ regRead s .cmd = some 0#32) ∧
    (Reg.opa.offset = 0x004 ∧ regRead s .opa = s.opa) ∧
    (Reg.opb.offset = 0x008 ∧ regRead s .opb = s.opb) ∧
    (Reg.res.offset = 0x00C ∧ regRead s .res = s.res) ∧
    (Reg.resh.offset = 0x010 ∧ regRead s .resh = s.resh) ∧
    (Reg.status.offset = 0x014 ∧ ∃ w, regRead s .status = some w ∧ w.extractLsb' 0 8 = s.status.code ∧
      w.getLsbD 8 = s.status.defaulted ∧ w.extractLsb' 9 7 = 0#7 ∧ w.extractLsb' 16 8 = s.status.fcode ∧
      w.extractLsb' 24 7 = 0#7 ∧ w.getLsbD 31 = s.status.fault) ∧
    (Reg.muxState.offset = 0x018 ∧
      (s.muxState = .unconfigured → regRead s .muxState = some 0#32) ∧
      (s.muxState = .configured → regRead s .muxState = some 1#32) ∧
      (s.muxState = .built → regRead s .muxState = some 2#32)) ∧
    (Reg.muxCount.offset = 0x01C ∧ ∃ w, regRead s .muxCount = some w ∧ w.toNat = s.muxCount.toNat) ∧
    (Reg.muxOffset.offset = 0x020 ∧ ∃ w, regRead s .muxOffset = some w ∧ w.toNat = s.muxOffset.toNat) ∧
    (Reg.muxMaxbuf.offset = 0x024 ∧ ∃ w, regRead s .muxMaxbuf = some w ∧ w.toNat = s.muxMaxbuf.toNat) ∧
    (Reg.param0.offset = 0x028 ∧ (s.cfg.Legal → ∃ w, regRead s .param0 = some w ∧
      (w.extractLsb' 0 8).toNat = s.cfg.muxMaxSlots ∧ (w.extractLsb' 8 8).toNat = s.cfg.meanCount ∧
      (w.extractLsb' 16 8).toNat = s.cfg.rdoCount ∧ (w.extractLsb' 24 8).toNat = s.cfg.extPorts)) ∧
    (Reg.param1.offset = 0x02C ∧ (s.cfg.Legal → ∃ w, regRead s .param1 = some w ∧ w.toNat = s.cfg.fbBytes)) ∧
    (∀ m, (Reg.meanSumLo m).offset = 0x100 + 0x20 * m + 0x00 ∧
      (Reg.meanSumHi m).offset = 0x100 + 0x20 * m + 0x04 ∧
      (∃ lo hi, regRead s (.meanSumLo m) = some lo ∧ regRead s (.meanSumHi m) = some hi ∧
        hi ++ lo = (s.meanAt m).sum) ∧
      (Reg.meanIndex m).offset = 0x100 + 0x20 * m + 0x08 ∧
      regRead s (.meanIndex m) = some (s.meanAt m).index ∧
      (Reg.meanMaxSize m).offset = 0x100 + 0x20 * m + 0x0C ∧
      regRead s (.meanMaxSize m) = some (s.meanAt m).maxSize ∧
      (Reg.meanCfg m).offset = 0x100 + 0x20 * m + 0x10 ∧
      (∃ w, regRead s (.meanCfg m) = some w ∧ w.extractLsb' 0 5 = (s.meanAt m).prec ∧
        w.extractLsb' 5 26 = 0#26 ∧ w.getLsbD 31 = (s.meanAt m).valid)) ∧
    (∀ i, (Reg.slotInstance i).offset = 0x200 + 0x10 * i + 0x0 ∧
      regRead s (.slotInstance i) = some (s.slotAt i).inst ∧
      (Reg.slotSize i).offset = 0x200 + 0x10 * i + 0x4 ∧
      (∃ w, regRead s (.slotSize i) = some w ∧ w.toNat = (s.slotAt i).size.toNat) ∧
      (Reg.slotIndex i).offset = 0x200 + 0x10 * i + 0x8 ∧
      (∃ w, regRead s (.slotIndex i) = some w ∧ w.toNat = (s.slotAt i).index.toNat) ∧
      (Reg.slotHandlers i).offset = 0x200 + 0x10 * i + 0xC ∧
      (∃ w, regRead s (.slotHandlers i) = some w ∧ w.extractLsb' 0 8 = (s.slotAt i).send ∧
        w.extractLsb' 8 8 = (s.slotAt i).recv ∧ w.extractLsb' 16 16 = 0#16)) ∧
    (∀ e, (Reg.rdoOffset e).offset = 0x400 + 0x10 * e + 0x0 ∧
      (∃ w, regRead s (.rdoOffset e) = some w ∧ w.toNat = (s.rdoAt e).offset.toNat) ∧
      (Reg.rdoRollover e).offset = 0x400 + 0x10 * e + 0x4 ∧
      (∃ w, regRead s (.rdoRollover e) = some w ∧ w.toNat = (s.rdoAt e).rollover.toNat) ∧
      (Reg.rdoCtrl e).offset = 0x400 + 0x10 * e + 0x8 ∧
      (∃ w, regRead s (.rdoCtrl e) = some w ∧ w.getLsbD 0 = (s.rdoAt e).enabled ∧
        w.extractLsb' 1 30 = 0#30 ∧ w.getLsbD 31 = (s.rdoAt e).valid))

/-- A host access of the wrong width, at an offset where no register stands, or beyond the frame buffer,
raises BAD_ACCESS with no effect; a read returns 0 (rules R62, R63, R64, R214). -/
def Obligations.BadAccessFaults : Prop :=
  ∀ (s : State) (off width : Nat) (rest : List Event), s.busy = none → off < 0x2000 →
    (off < 0x1000 ∧ (width ≠ 32 ∨ ∀ r : Reg, r.Exists s.cfg → r.offset ≠ off)) ∨
      (0x1000 ≤ off ∧ (width ≠ 8 ∨ s.cfg.fbBytes ≤ off - 0x1000)) →
    (s.bus = .read (s.cfg.fxmuxBase + off) width :: rest →
      step s = .next { s with bus := rest, reply := some 0#32, status := s.status.busFaulted 0x1D#8 }) ∧
    (∀ data, s.bus = .write (s.cfg.fxmuxBase + off) width data :: rest →
      step s = .next { s with bus := rest, reply := none, status := s.status.busFaulted 0x1D#8 })

/-- A 32-bit write to OPA, at offset 0x004, or OPB, at 0x008, sets it and changes nothing else; to any other
register but CMD, at 0x000, it raises BAD_ACCESS with no effect (rules R21, R36, R64, R69). The offsets of the
others are the numbers of PackedRegisterLayout. -/
def Obligations.RegisterWriteRights : Prop :=
  ∀ (s : State) (data : Word) (rest : List Event), s.cfg.Legal → s.busy = none →
    (s.bus = .write (s.cfg.fxmuxBase + 0x004) 32 data :: rest →
      step s = .next { s with bus := rest, reply := none, opa := some data }) ∧
    (s.bus = .write (s.cfg.fxmuxBase + 0x008) 32 data :: rest →
      step s = .next { s with bus := rest, reply := none, opb := some data }) ∧
    (∀ r : Reg, r.Exists s.cfg → r.offset ≠ 0x000 → r.offset ≠ 0x004 → r.offset ≠ 0x008 →
      s.bus = .write (s.cfg.fxmuxBase + r.offset) 32 data :: rest →
      step s = .next { s with bus := rest, reply := none, status := s.status.busFaulted 0x1D#8 })

/-- An 8-bit write to FB[a] and then an 8-bit read of FB[b]. The write sets byte `a` and changes no other byte
and nothing else; the read returns byte `b` as it then stands, which is the byte written if `b` is `a`, or 0
with UNWRITTEN_READ, and changes nothing else (rules R22, R63, R69, R71). The byte written is the low 8 bits of
the event's data word, and a byte read stands zero-extended in `reply`: the model's choice (log 12). -/
def Obligations.FrameByteReadAfterWrite : Prop :=
  ∀ (s : State) (a b : Nat) (data : Word) (rest : List Event), s.busy = none → a < s.cfg.fbBytes →
    b < s.cfg.fbBytes → s.cfg.fbBytes ≤ 4096 →
    s.bus = .write (s.cfg.fxmuxBase + 0x1000 + a) 8 data ::
      .read (s.cfg.fxmuxBase + 0x1000 + b) 8 :: rest →
    ∃ (t : State) (v : Byte), v.toNat = data.toNat % 256 ∧ step s = .next t ∧
      t = { s with bus := .read (s.cfg.fxmuxBase + 0x1000 + b) 8 :: rest, reply := none, fb := t.fb } ∧
      Memory.read t.fb a = some v ∧ (∀ x, x ≠ a → Memory.read t.fb x = Memory.read s.fb x) ∧
      (b = a → step t = .next { t with bus := rest, reply := some (v.setWidth 32) }) ∧
      (b ≠ a → ∀ w, Memory.read s.fb b = some w →
        step t = .next { t with bus := rest, reply := some (w.setWidth 32) }) ∧
      (b ≠ a → Memory.read s.fb b = none →
        step t = .next { t with bus := rest, reply := some 0#32, status := s.status.busFaulted 0x1E#8 })

/-- While a command waits for a client no host access is taken, and otherwise a step takes exactly the next
event (rules R68, R71). A platform reset is an event too and is taken also while a command waits: the model's
choice (log 9; rules R68 and R71 speak of host accesses only). -/
def Obligations.StepTakesNextEventInOrder : Prop :=
  ∀ s t : State, step s = .next t →
    (s.busy ≠ none → (∀ rest, s.bus ≠ .reset :: rest) → t.bus = s.bus) ∧
    (s.busy = none ∨ (∃ rest, s.bus = .reset :: rest) → t.bus = s.bus.tail)

/-- An access outside the block's window stops the model: the spec claims nothing there (rule R65; the stop
is the model's choice, log 10). -/
def Obligations.AccessOutsideWindowStops : Prop :=
  ∀ (s : State) (addr width : Nat) (data : Word) (rest : List Event), s.busy = none →
    addr < s.cfg.fxmuxBase ∨ s.cfg.fxmuxBase + 0x2000 ≤ addr →
    (s.bus = .read addr width :: rest → step s = .fault .outsideWindow) ∧
    (s.bus = .write addr width data :: rest → step s = .fault .outsideWindow)

/-! ### Reset, faults and invariants -/

/-- Every register a read can reach, after reset, in every configuration and from every state: OPA, OPB, RES,
RESH and every FB byte unwritten, every other register but PARAM0 and PARAM1 0 (rule R37). -/
def Obligations.ResetRegisterValues : Prop :=
  ∀ (c : Config) (t : State),
    t = State.resetWith c ∨ (∃ s rest, s.cfg = c ∧ s.bus = .reset :: rest ∧ step s = .next t) →
    (∀ r : Reg, r.Exists c →
      (r = .opa ∨ r = .opb ∨ r = .res ∨ r = .resh → regRead t r = none) ∧
      (r ≠ .opa → r ≠ .opb → r ≠ .res → r ≠ .resh → r ≠ .param0 → r ≠ .param1 → regRead t r = some 0#32)) ∧
    ∀ a, Memory.read t.fb a = none

/-- A platform reset gives the reset state of the same implementation, whatever the block was doing, also a
command that waits; and reset is the only event that clears FAULT or brings MUX_STATE back to UNCONFIGURED
(rules R33, R215, R240). What the outside world holds stays: the model's choice (log 9). -/
def Obligations.ResetIsTheOnlyWayBack : Prop :=
  (∀ (s : State) (rest : List Event), s.bus = .reset :: rest →
    step s = .next { State.resetWith s.cfg with bus := rest, clients := s.clients, requests := s.requests }) ∧
  (∀ s t : State, step s = .next t → (∀ rest, s.bus ≠ .reset :: rest) →
    (s.status.fault = true → t.status.fault = true ∧ t.status.fcode = s.status.fcode) ∧
    (s.muxState ≠ .unconfigured → t.muxState ≠ .unconfigured))

/-- The table never shrinks, a registered descriptor never changes and MUX_STATE never returns to
UNCONFIGURED, but by reset (rule R33). -/
def Obligations.TableNeverShrinks : Prop :=
  ∀ s t : State, s.TableInv → step s = .next t → (∀ rest, s.bus ≠ .reset :: rest) →
    s.muxCount.toNat ≤ t.muxCount.toNat ∧ s.muxOffset.toNat ≤ t.muxOffset.toNat ∧
    (s.muxState ≠ .unconfigured → t.muxState ≠ .unconfigured ∧ t.muxMaxbuf = s.muxMaxbuf) ∧
    ∀ i, i < s.muxCount.toNat → t.slotAt i = s.slotAt i

/-- Every step keeps the table's invariant: MUX_OFFSET is the sum of the registered sizes, within MUX_MAXBUF
and FB_BYTES; each INDEX is the sum of the sizes before it; unregistered descriptors are zero; MUX_STATE is
BUILT exactly with a slot (rules R29, R30, R31, R32). -/
def Obligations.StepKeepsTable : Prop :=
  ∀ s t : State, s.TableInv → step s = .next t → t.TableInv

/-- Every step keeps the frame buffer in canonical form and inside FB[0 .. FB_BYTES-1] (rules R60, R72). -/
def Obligations.StepKeepsFrameBuffer : Prop :=
  ∀ s t : State, s.TableInv → s.FrameInv → step s = .next t → t.FrameInv

/-- Every step keeps the engines and the mean bank: their number, a valid engine's rollover not 0, an
instance that is not initialised all zero (rules R28, R34, R37, R162). -/
def Obligations.StepKeepsInstances : Prop :=
  ∀ s t : State, s.EngineInv → s.MeanInv → step s = .next t → t.EngineInv ∧ t.MeanInv

/-- Every step keeps STATUS (CODE and FCODE hold codes of the table, FCODE is 0 while FAULT is 0, a fault code
in CODE goes with FAULT, DEFAULTED with OK) and keeps a waiting command at a registered slot of an external
client with FAULT clear (rules R25, R193, R212). -/
def Obligations.StepKeepsStatusAndWait : Prop :=
  ∀ s t : State, step s = .next t → (s.StatusInv → t.StatusInv) ∧ (s.WaitInv → t.WaitInv)

/-- The invariant holds after reset, in every legal configuration and in the model's own reset state. -/
def Obligations.ResetSatisfiesInvariant : Prop :=
  (∀ c : Config, c.Legal → (State.resetWith c).Inv) ∧ State.reset.Inv

/-- The windows of the registered slots partition the frame: every byte below MUX_OFFSET lies in exactly one,
and none reaches beyond it (rule R32). -/
def Obligations.WindowsPartitionFrame : Prop :=
  ∀ s : State, s.TableInv →
    (∀ a, a < s.muxOffset.toNat → ∃ i, i < s.muxCount.toNat ∧ (s.slotAt i).index.toNat ≤ a ∧
      a < (s.slotAt i).index.toNat + (s.slotAt i).size.toNat) ∧
    (∀ i j a, i < s.muxCount.toNat → j < s.muxCount.toNat →
      (s.slotAt i).index.toNat ≤ a → a < (s.slotAt i).index.toNat + (s.slotAt i).size.toNat →
      (s.slotAt j).index.toNat ≤ a → a < (s.slotAt j).index.toNat + (s.slotAt j).size.toNat →
      i = j ∧ a < s.muxOffset.toNat) ∧
    (0 < s.muxCount.toNat → (s.slotAt 0).index = 0#16) ∧
    (∀ i, i + 1 < s.muxCount.toNat →
      (s.slotAt (i + 1)).index.toNat = (s.slotAt i).index.toNat + (s.slotAt i).size.toNat)
end

