-- ==== Sys2Proof/Laws/Bus.lean ====
section
/-! SUPPORT. Where a host access lands: each register at its own offset, each frame byte in its place
(10_state.md rule R36, 20_memory.md rules R61 to R64). -/

namespace Sys2Proof.Machine

theorem regAt_mean {c : Config} {m k : Nat} (hc : c.Legal) (hm : m < c.meanCount) (hk : k < 0x20) :
    regAt c (0x100 + 0x20 * m + k) = meanReg m k := by
  have h := hc.2.2.1.2
  unfold regAt
  rw [if_neg (by omega), if_pos (by omega), show (0x100 + 0x20 * m + k - 0x100) / 0x20 = m by omega,
    show (0x100 + 0x20 * m + k - 0x100) % 0x20 = k by omega, if_pos hm]

theorem regAt_slot {c : Config} {i k : Nat} (hc : c.Legal) (hi : i < c.muxMaxSlots) (hk : k < 0x10) :
    regAt c (0x200 + 0x10 * i + k) = slotReg i k := by
  have h := hc.1.2
  unfold regAt
  rw [if_neg (by omega), if_neg (by omega), if_pos (by omega),
    show (0x200 + 0x10 * i + k - 0x200) / 0x10 = i by omega,
    show (0x200 + 0x10 * i + k - 0x200) % 0x10 = k by omega, if_pos hi]

theorem regAt_rdo {c : Config} {e k : Nat} (hc : c.Legal) (he : e < c.rdoCount) (hk : k < 0x10) :
    regAt c (0x400 + 0x10 * e + k) = rdoReg e k := by
  have h := hc.2.2.2.1.2
  unfold regAt
  rw [if_neg (by omega), if_neg (by omega), if_neg (by omega), if_pos (by omega),
    show (0x400 + 0x10 * e + k - 0x400) / 0x10 = e by omega,
    show (0x400 + 0x10 * e + k - 0x400) % 0x10 = k by omega, if_pos he]

/-- An access at the offset of a register that exists lands on that register. -/
theorem regAt_offset {c : Config} {r : Reg} (hc : c.Legal) (hr : r.Exists c) : regAt c r.offset = some r := by
  cases r with
  | meanSumLo m | meanSumHi m | meanIndex m | meanMaxSize m | meanCfg m => exact regAt_mean hc hr (by decide)
  | slotInstance i | slotSize i | slotIndex i | slotHandlers i => exact regAt_slot hc hr (by decide)
  | rdoOffset e | rdoRollover e | rdoCtrl e => exact regAt_rdo hc hr (by decide)
  | _ => rfl

/-- Every register stands below the frame window. -/
theorem offset_lt {c : Config} {r : Reg} (hc : c.Legal) (hr : r.Exists c) : r.offset < 0x1000 := by
  have h1 := hc.1.2
  have h2 := hc.2.2.1.2
  have h3 := hc.2.2.2.1.2
  cases r <;> simp only [Reg.Exists] at hr <;> simp only [Reg.offset] <;> omega

/-- A 32-bit access at a register's offset lands on it. -/
theorem target_register {c : Config} {r : Reg} (hc : c.Legal) (hr : r.Exists c) :
    target c r.offset 32 = .reg r := by
  have h := offset_lt hc hr
  simp [target, regAt_offset hc hr, Nat.not_le.2 h]

/-- An 8-bit access at a frame byte's offset lands on that byte. -/
theorem target_byte {c : Config} {a : Nat} (ha : a < c.fbBytes) : target c (0x1000 + a) 8 = .byte a := by
  simp [target, ha]

/-- A step that takes a read inside the window performs it. -/
theorem step_read {s : State} {off width : Nat} {rest : List Event} (hb : s.busy = none) (ho : off < 0x2000)
    (hbus : s.bus = .read (s.cfg.fxmuxBase + off) width :: rest) :
    step s = .next (hostRead off width (s.takeEvent rest)) := by
  have hw : inWindow s.cfg (s.cfg.fxmuxBase + off) := by unfold inWindow windowBytes; omega
  simp only [step, blockStep, hbus, hb, takeStep]
  rw [if_pos (show inWindow (s.takeEvent rest).cfg _ from hw)]
  rw [show s.cfg.fxmuxBase + off - (s.takeEvent rest).cfg.fxmuxBase = off from
    Nat.add_sub_cancel_left ..]

/-- A step that takes a write inside the window performs it. -/
theorem step_write {s : State} {off width : Nat} {data : Word} {rest : List Event} (hb : s.busy = none)
    (ho : off < 0x2000) (hbus : s.bus = .write (s.cfg.fxmuxBase + off) width data :: rest) :
    step s = hostWrite off width data (s.takeEvent rest) := by
  have hw : inWindow s.cfg (s.cfg.fxmuxBase + off) := by unfold inWindow windowBytes; omega
  simp only [step, blockStep, hbus, hb, takeStep]
  rw [if_pos (show inWindow (s.takeEvent rest).cfg _ from hw)]
  rw [show s.cfg.fxmuxBase + off - (s.takeEvent rest).cfg.fxmuxBase = off from
    Nat.add_sub_cancel_left ..]

end Sys2Proof.Machine
end

