-- ==== Sys2Proof/Laws/State.lean ====
section
/-! SUPPORT. One lemma per field per update of State, all true by rfl, so that no proof unfolds a record
update; then the table accessors through each update. -/

namespace Sys2Proof.Machine

variable (s : State)

@[simp] theorem setOpa_cfg (v : Word) : (s.setOpa v).cfg = s.cfg := rfl
@[simp] theorem setOpa_opa (v : Word) : (s.setOpa v).opa = some v := rfl
@[simp] theorem setOpa_opb (v : Word) : (s.setOpa v).opb = s.opb := rfl
@[simp] theorem setOpa_res (v : Word) : (s.setOpa v).res = s.res := rfl
@[simp] theorem setOpa_resh (v : Word) : (s.setOpa v).resh = s.resh := rfl
@[simp] theorem setOpa_status (v : Word) : (s.setOpa v).status = s.status := rfl
@[simp] theorem setOpa_muxState (v : Word) : (s.setOpa v).muxState = s.muxState := rfl
@[simp] theorem setOpa_muxCount (v : Word) : (s.setOpa v).muxCount = s.muxCount := rfl
@[simp] theorem setOpa_muxOffset (v : Word) : (s.setOpa v).muxOffset = s.muxOffset := rfl
@[simp] theorem setOpa_muxMaxbuf (v : Word) : (s.setOpa v).muxMaxbuf = s.muxMaxbuf := rfl
@[simp] theorem setOpa_slots (v : Word) : (s.setOpa v).slots = s.slots := rfl
@[simp] theorem setOpa_mean (v : Word) : (s.setOpa v).mean = s.mean := rfl
@[simp] theorem setOpa_rdo (v : Word) : (s.setOpa v).rdo = s.rdo := rfl
@[simp] theorem setOpa_fb (v : Word) : (s.setOpa v).fb = s.fb := rfl
@[simp] theorem setOpa_busy (v : Word) : (s.setOpa v).busy = s.busy := rfl
@[simp] theorem setOpa_bus (v : Word) : (s.setOpa v).bus = s.bus := rfl
@[simp] theorem setOpa_reply (v : Word) : (s.setOpa v).reply = s.reply := rfl
@[simp] theorem setOpa_clients (v : Word) : (s.setOpa v).clients = s.clients := rfl
@[simp] theorem setOpa_requests (v : Word) : (s.setOpa v).requests = s.requests := rfl
@[simp] theorem setOpa_slotAt (v : Word) (i : Nat) : (s.setOpa v).slotAt i = s.slotAt i := rfl
@[simp] theorem setOpa_meanAt (v : Word) (i : Nat) : (s.setOpa v).meanAt i = s.meanAt i := rfl
@[simp] theorem setOpa_rdoAt (v : Word) (i : Nat) : (s.setOpa v).rdoAt i = s.rdoAt i := rfl

@[simp] theorem setOpb_cfg (v : Word) : (s.setOpb v).cfg = s.cfg := rfl
@[simp] theorem setOpb_opa (v : Word) : (s.setOpb v).opa = s.opa := rfl
@[simp] theorem setOpb_opb (v : Word) : (s.setOpb v).opb = some v := rfl
@[simp] theorem setOpb_res (v : Word) : (s.setOpb v).res = s.res := rfl
@[simp] theorem setOpb_resh (v : Word) : (s.setOpb v).resh = s.resh := rfl
@[simp] theorem setOpb_status (v : Word) : (s.setOpb v).status = s.status := rfl
@[simp] theorem setOpb_muxState (v : Word) : (s.setOpb v).muxState = s.muxState := rfl
@[simp] theorem setOpb_muxCount (v : Word) : (s.setOpb v).muxCount = s.muxCount := rfl
@[simp] theorem setOpb_muxOffset (v : Word) : (s.setOpb v).muxOffset = s.muxOffset := rfl
@[simp] theorem setOpb_muxMaxbuf (v : Word) : (s.setOpb v).muxMaxbuf = s.muxMaxbuf := rfl
@[simp] theorem setOpb_slots (v : Word) : (s.setOpb v).slots = s.slots := rfl
@[simp] theorem setOpb_mean (v : Word) : (s.setOpb v).mean = s.mean := rfl
@[simp] theorem setOpb_rdo (v : Word) : (s.setOpb v).rdo = s.rdo := rfl
@[simp] theorem setOpb_fb (v : Word) : (s.setOpb v).fb = s.fb := rfl
@[simp] theorem setOpb_busy (v : Word) : (s.setOpb v).busy = s.busy := rfl
@[simp] theorem setOpb_bus (v : Word) : (s.setOpb v).bus = s.bus := rfl
@[simp] theorem setOpb_reply (v : Word) : (s.setOpb v).reply = s.reply := rfl
@[simp] theorem setOpb_clients (v : Word) : (s.setOpb v).clients = s.clients := rfl
@[simp] theorem setOpb_requests (v : Word) : (s.setOpb v).requests = s.requests := rfl
@[simp] theorem setOpb_slotAt (v : Word) (i : Nat) : (s.setOpb v).slotAt i = s.slotAt i := rfl
@[simp] theorem setOpb_meanAt (v : Word) (i : Nat) : (s.setOpb v).meanAt i = s.meanAt i := rfl
@[simp] theorem setOpb_rdoAt (v : Word) (i : Nat) : (s.setOpb v).rdoAt i = s.rdoAt i := rfl

@[simp] theorem setRes_cfg (v : Word) : (s.setRes v).cfg = s.cfg := rfl
@[simp] theorem setRes_opa (v : Word) : (s.setRes v).opa = s.opa := rfl
@[simp] theorem setRes_opb (v : Word) : (s.setRes v).opb = s.opb := rfl
@[simp] theorem setRes_res (v : Word) : (s.setRes v).res = some v := rfl
@[simp] theorem setRes_resh (v : Word) : (s.setRes v).resh = s.resh := rfl
@[simp] theorem setRes_status (v : Word) : (s.setRes v).status = s.status := rfl
@[simp] theorem setRes_muxState (v : Word) : (s.setRes v).muxState = s.muxState := rfl
@[simp] theorem setRes_muxCount (v : Word) : (s.setRes v).muxCount = s.muxCount := rfl
@[simp] theorem setRes_muxOffset (v : Word) : (s.setRes v).muxOffset = s.muxOffset := rfl
@[simp] theorem setRes_muxMaxbuf (v : Word) : (s.setRes v).muxMaxbuf = s.muxMaxbuf := rfl
@[simp] theorem setRes_slots (v : Word) : (s.setRes v).slots = s.slots := rfl
@[simp] theorem setRes_mean (v : Word) : (s.setRes v).mean = s.mean := rfl
@[simp] theorem setRes_rdo (v : Word) : (s.setRes v).rdo = s.rdo := rfl
@[simp] theorem setRes_fb (v : Word) : (s.setRes v).fb = s.fb := rfl
@[simp] theorem setRes_busy (v : Word) : (s.setRes v).busy = s.busy := rfl
@[simp] theorem setRes_bus (v : Word) : (s.setRes v).bus = s.bus := rfl
@[simp] theorem setRes_reply (v : Word) : (s.setRes v).reply = s.reply := rfl
@[simp] theorem setRes_clients (v : Word) : (s.setRes v).clients = s.clients := rfl
@[simp] theorem setRes_requests (v : Word) : (s.setRes v).requests = s.requests := rfl
@[simp] theorem setRes_slotAt (v : Word) (i : Nat) : (s.setRes v).slotAt i = s.slotAt i := rfl
@[simp] theorem setRes_meanAt (v : Word) (i : Nat) : (s.setRes v).meanAt i = s.meanAt i := rfl
@[simp] theorem setRes_rdoAt (v : Word) (i : Nat) : (s.setRes v).rdoAt i = s.rdoAt i := rfl

@[simp] theorem setResh_cfg (v : Word) : (s.setResh v).cfg = s.cfg := rfl
@[simp] theorem setResh_opa (v : Word) : (s.setResh v).opa = s.opa := rfl
@[simp] theorem setResh_opb (v : Word) : (s.setResh v).opb = s.opb := rfl
@[simp] theorem setResh_res (v : Word) : (s.setResh v).res = s.res := rfl
@[simp] theorem setResh_resh (v : Word) : (s.setResh v).resh = some v := rfl
@[simp] theorem setResh_status (v : Word) : (s.setResh v).status = s.status := rfl
@[simp] theorem setResh_muxState (v : Word) : (s.setResh v).muxState = s.muxState := rfl
@[simp] theorem setResh_muxCount (v : Word) : (s.setResh v).muxCount = s.muxCount := rfl
@[simp] theorem setResh_muxOffset (v : Word) : (s.setResh v).muxOffset = s.muxOffset := rfl
@[simp] theorem setResh_muxMaxbuf (v : Word) : (s.setResh v).muxMaxbuf = s.muxMaxbuf := rfl
@[simp] theorem setResh_slots (v : Word) : (s.setResh v).slots = s.slots := rfl
@[simp] theorem setResh_mean (v : Word) : (s.setResh v).mean = s.mean := rfl
@[simp] theorem setResh_rdo (v : Word) : (s.setResh v).rdo = s.rdo := rfl
@[simp] theorem setResh_fb (v : Word) : (s.setResh v).fb = s.fb := rfl
@[simp] theorem setResh_busy (v : Word) : (s.setResh v).busy = s.busy := rfl
@[simp] theorem setResh_bus (v : Word) : (s.setResh v).bus = s.bus := rfl
@[simp] theorem setResh_reply (v : Word) : (s.setResh v).reply = s.reply := rfl
@[simp] theorem setResh_clients (v : Word) : (s.setResh v).clients = s.clients := rfl
@[simp] theorem setResh_requests (v : Word) : (s.setResh v).requests = s.requests := rfl
@[simp] theorem setResh_slotAt (v : Word) (i : Nat) : (s.setResh v).slotAt i = s.slotAt i := rfl
@[simp] theorem setResh_meanAt (v : Word) (i : Nat) : (s.setResh v).meanAt i = s.meanAt i := rfl
@[simp] theorem setResh_rdoAt (v : Word) (i : Nat) : (s.setResh v).rdoAt i = s.rdoAt i := rfl

@[simp] theorem setStatus_cfg (st : Status) : (s.setStatus st).cfg = s.cfg := rfl
@[simp] theorem setStatus_opa (st : Status) : (s.setStatus st).opa = s.opa := rfl
@[simp] theorem setStatus_opb (st : Status) : (s.setStatus st).opb = s.opb := rfl
@[simp] theorem setStatus_res (st : Status) : (s.setStatus st).res = s.res := rfl
@[simp] theorem setStatus_resh (st : Status) : (s.setStatus st).resh = s.resh := rfl
@[simp] theorem setStatus_status (st : Status) : (s.setStatus st).status = st := rfl
@[simp] theorem setStatus_muxState (st : Status) : (s.setStatus st).muxState = s.muxState := rfl
@[simp] theorem setStatus_muxCount (st : Status) : (s.setStatus st).muxCount = s.muxCount := rfl
@[simp] theorem setStatus_muxOffset (st : Status) : (s.setStatus st).muxOffset = s.muxOffset := rfl
@[simp] theorem setStatus_muxMaxbuf (st : Status) : (s.setStatus st).muxMaxbuf = s.muxMaxbuf := rfl
@[simp] theorem setStatus_slots (st : Status) : (s.setStatus st).slots = s.slots := rfl
@[simp] theorem setStatus_mean (st : Status) : (s.setStatus st).mean = s.mean := rfl
@[simp] theorem setStatus_rdo (st : Status) : (s.setStatus st).rdo = s.rdo := rfl
@[simp] theorem setStatus_fb (st : Status) : (s.setStatus st).fb = s.fb := rfl
@[simp] theorem setStatus_busy (st : Status) : (s.setStatus st).busy = s.busy := rfl
@[simp] theorem setStatus_bus (st : Status) : (s.setStatus st).bus = s.bus := rfl
@[simp] theorem setStatus_reply (st : Status) : (s.setStatus st).reply = s.reply := rfl
@[simp] theorem setStatus_clients (st : Status) : (s.setStatus st).clients = s.clients := rfl
@[simp] theorem setStatus_requests (st : Status) : (s.setStatus st).requests = s.requests := rfl
@[simp] theorem setStatus_slotAt (st : Status) (i : Nat) : (s.setStatus st).slotAt i = s.slotAt i := rfl
@[simp] theorem setStatus_meanAt (st : Status) (i : Nat) : (s.setStatus st).meanAt i = s.meanAt i := rfl
@[simp] theorem setStatus_rdoAt (st : Status) (i : Nat) : (s.setStatus st).rdoAt i = s.rdoAt i := rfl

@[simp] theorem setFb_cfg (m : Memory) : (s.setFb m).cfg = s.cfg := rfl
@[simp] theorem setFb_opa (m : Memory) : (s.setFb m).opa = s.opa := rfl
@[simp] theorem setFb_opb (m : Memory) : (s.setFb m).opb = s.opb := rfl
@[simp] theorem setFb_res (m : Memory) : (s.setFb m).res = s.res := rfl
@[simp] theorem setFb_resh (m : Memory) : (s.setFb m).resh = s.resh := rfl
@[simp] theorem setFb_status (m : Memory) : (s.setFb m).status = s.status := rfl
@[simp] theorem setFb_muxState (m : Memory) : (s.setFb m).muxState = s.muxState := rfl
@[simp] theorem setFb_muxCount (m : Memory) : (s.setFb m).muxCount = s.muxCount := rfl
@[simp] theorem setFb_muxOffset (m : Memory) : (s.setFb m).muxOffset = s.muxOffset := rfl
@[simp] theorem setFb_muxMaxbuf (m : Memory) : (s.setFb m).muxMaxbuf = s.muxMaxbuf := rfl
@[simp] theorem setFb_slots (m : Memory) : (s.setFb m).slots = s.slots := rfl
@[simp] theorem setFb_mean (m : Memory) : (s.setFb m).mean = s.mean := rfl
@[simp] theorem setFb_rdo (m : Memory) : (s.setFb m).rdo = s.rdo := rfl
@[simp] theorem setFb_fb (m : Memory) : (s.setFb m).fb = m := rfl
@[simp] theorem setFb_busy (m : Memory) : (s.setFb m).busy = s.busy := rfl
@[simp] theorem setFb_bus (m : Memory) : (s.setFb m).bus = s.bus := rfl
@[simp] theorem setFb_reply (m : Memory) : (s.setFb m).reply = s.reply := rfl
@[simp] theorem setFb_clients (m : Memory) : (s.setFb m).clients = s.clients := rfl
@[simp] theorem setFb_requests (m : Memory) : (s.setFb m).requests = s.requests := rfl
@[simp] theorem setFb_slotAt (m : Memory) (i : Nat) : (s.setFb m).slotAt i = s.slotAt i := rfl
@[simp] theorem setFb_meanAt (m : Memory) (i : Nat) : (s.setFb m).meanAt i = s.meanAt i := rfl
@[simp] theorem setFb_rdoAt (m : Memory) (i : Nat) : (s.setFb m).rdoAt i = s.rdoAt i := rfl

@[simp] theorem setMean_cfg (k : Nat) (v : Mean) : (s.setMean k v).cfg = s.cfg := rfl
@[simp] theorem setMean_opa (k : Nat) (v : Mean) : (s.setMean k v).opa = s.opa := rfl
@[simp] theorem setMean_opb (k : Nat) (v : Mean) : (s.setMean k v).opb = s.opb := rfl
@[simp] theorem setMean_res (k : Nat) (v : Mean) : (s.setMean k v).res = s.res := rfl
@[simp] theorem setMean_resh (k : Nat) (v : Mean) : (s.setMean k v).resh = s.resh := rfl
@[simp] theorem setMean_status (k : Nat) (v : Mean) : (s.setMean k v).status = s.status := rfl
@[simp] theorem setMean_muxState (k : Nat) (v : Mean) : (s.setMean k v).muxState = s.muxState := rfl
@[simp] theorem setMean_muxCount (k : Nat) (v : Mean) : (s.setMean k v).muxCount = s.muxCount := rfl
@[simp] theorem setMean_muxOffset (k : Nat) (v : Mean) : (s.setMean k v).muxOffset = s.muxOffset := rfl
@[simp] theorem setMean_muxMaxbuf (k : Nat) (v : Mean) : (s.setMean k v).muxMaxbuf = s.muxMaxbuf := rfl
@[simp] theorem setMean_slots (k : Nat) (v : Mean) : (s.setMean k v).slots = s.slots := rfl
@[simp] theorem setMean_mean (k : Nat) (v : Mean) : (s.setMean k v).mean = s.mean.set k v := rfl
@[simp] theorem setMean_rdo (k : Nat) (v : Mean) : (s.setMean k v).rdo = s.rdo := rfl
@[simp] theorem setMean_fb (k : Nat) (v : Mean) : (s.setMean k v).fb = s.fb := rfl
@[simp] theorem setMean_busy (k : Nat) (v : Mean) : (s.setMean k v).busy = s.busy := rfl
@[simp] theorem setMean_bus (k : Nat) (v : Mean) : (s.setMean k v).bus = s.bus := rfl
@[simp] theorem setMean_reply (k : Nat) (v : Mean) : (s.setMean k v).reply = s.reply := rfl
@[simp] theorem setMean_clients (k : Nat) (v : Mean) : (s.setMean k v).clients = s.clients := rfl
@[simp] theorem setMean_requests (k : Nat) (v : Mean) : (s.setMean k v).requests = s.requests := rfl
@[simp] theorem setMean_slotAt (k : Nat) (v : Mean) (i : Nat) : (s.setMean k v).slotAt i = s.slotAt i := rfl
@[simp] theorem setMean_rdoAt (k : Nat) (v : Mean) (i : Nat) : (s.setMean k v).rdoAt i = s.rdoAt i := rfl

@[simp] theorem setRdo_cfg (k : Nat) (v : Rdo) : (s.setRdo k v).cfg = s.cfg := rfl
@[simp] theorem setRdo_opa (k : Nat) (v : Rdo) : (s.setRdo k v).opa = s.opa := rfl
@[simp] theorem setRdo_opb (k : Nat) (v : Rdo) : (s.setRdo k v).opb = s.opb := rfl
@[simp] theorem setRdo_res (k : Nat) (v : Rdo) : (s.setRdo k v).res = s.res := rfl
@[simp] theorem setRdo_resh (k : Nat) (v : Rdo) : (s.setRdo k v).resh = s.resh := rfl
@[simp] theorem setRdo_status (k : Nat) (v : Rdo) : (s.setRdo k v).status = s.status := rfl
@[simp] theorem setRdo_muxState (k : Nat) (v : Rdo) : (s.setRdo k v).muxState = s.muxState := rfl
@[simp] theorem setRdo_muxCount (k : Nat) (v : Rdo) : (s.setRdo k v).muxCount = s.muxCount := rfl
@[simp] theorem setRdo_muxOffset (k : Nat) (v : Rdo) : (s.setRdo k v).muxOffset = s.muxOffset := rfl
@[simp] theorem setRdo_muxMaxbuf (k : Nat) (v : Rdo) : (s.setRdo k v).muxMaxbuf = s.muxMaxbuf := rfl
@[simp] theorem setRdo_slots (k : Nat) (v : Rdo) : (s.setRdo k v).slots = s.slots := rfl
@[simp] theorem setRdo_mean (k : Nat) (v : Rdo) : (s.setRdo k v).mean = s.mean := rfl
@[simp] theorem setRdo_rdo (k : Nat) (v : Rdo) : (s.setRdo k v).rdo = s.rdo.set k v := rfl
@[simp] theorem setRdo_fb (k : Nat) (v : Rdo) : (s.setRdo k v).fb = s.fb := rfl
@[simp] theorem setRdo_busy (k : Nat) (v : Rdo) : (s.setRdo k v).busy = s.busy := rfl
@[simp] theorem setRdo_bus (k : Nat) (v : Rdo) : (s.setRdo k v).bus = s.bus := rfl
@[simp] theorem setRdo_reply (k : Nat) (v : Rdo) : (s.setRdo k v).reply = s.reply := rfl
@[simp] theorem setRdo_clients (k : Nat) (v : Rdo) : (s.setRdo k v).clients = s.clients := rfl
@[simp] theorem setRdo_requests (k : Nat) (v : Rdo) : (s.setRdo k v).requests = s.requests := rfl
@[simp] theorem setRdo_slotAt (k : Nat) (v : Rdo) (i : Nat) : (s.setRdo k v).slotAt i = s.slotAt i := rfl
@[simp] theorem setRdo_meanAt (k : Nat) (v : Rdo) (i : Nat) : (s.setRdo k v).meanAt i = s.meanAt i := rfl

@[simp] theorem createTable_cfg (mb : Half) : (s.createTable mb).cfg = s.cfg := rfl
@[simp] theorem createTable_opa (mb : Half) : (s.createTable mb).opa = s.opa := rfl
@[simp] theorem createTable_opb (mb : Half) : (s.createTable mb).opb = s.opb := rfl
@[simp] theorem createTable_res (mb : Half) : (s.createTable mb).res = s.res := rfl
@[simp] theorem createTable_resh (mb : Half) : (s.createTable mb).resh = s.resh := rfl
@[simp] theorem createTable_status (mb : Half) : (s.createTable mb).status = s.status := rfl
@[simp] theorem createTable_muxState (mb : Half) : (s.createTable mb).muxState = .configured := rfl
@[simp] theorem createTable_muxCount (mb : Half) : (s.createTable mb).muxCount = 0#6 := rfl
@[simp] theorem createTable_muxOffset (mb : Half) : (s.createTable mb).muxOffset = 0#16 := rfl
@[simp] theorem createTable_muxMaxbuf (mb : Half) : (s.createTable mb).muxMaxbuf = mb := rfl
@[simp] theorem createTable_slots (mb : Half) : (s.createTable mb).slots = s.slots := rfl
@[simp] theorem createTable_mean (mb : Half) : (s.createTable mb).mean = s.mean := rfl
@[simp] theorem createTable_rdo (mb : Half) : (s.createTable mb).rdo = s.rdo := rfl
@[simp] theorem createTable_fb (mb : Half) : (s.createTable mb).fb = s.fb := rfl
@[simp] theorem createTable_busy (mb : Half) : (s.createTable mb).busy = s.busy := rfl
@[simp] theorem createTable_bus (mb : Half) : (s.createTable mb).bus = s.bus := rfl
@[simp] theorem createTable_reply (mb : Half) : (s.createTable mb).reply = s.reply := rfl
@[simp] theorem createTable_clients (mb : Half) : (s.createTable mb).clients = s.clients := rfl
@[simp] theorem createTable_requests (mb : Half) : (s.createTable mb).requests = s.requests := rfl
@[simp] theorem createTable_slotAt (mb : Half) (i : Nat) : (s.createTable mb).slotAt i = s.slotAt i := rfl
@[simp] theorem createTable_meanAt (mb : Half) (i : Nat) : (s.createTable mb).meanAt i = s.meanAt i := rfl
@[simp] theorem createTable_rdoAt (mb : Half) (i : Nat) : (s.createTable mb).rdoAt i = s.rdoAt i := rfl

@[simp] theorem appendSlot_cfg (d : Slot) : (s.appendSlot d).cfg = s.cfg := rfl
@[simp] theorem appendSlot_opa (d : Slot) : (s.appendSlot d).opa = s.opa := rfl
@[simp] theorem appendSlot_opb (d : Slot) : (s.appendSlot d).opb = s.opb := rfl
@[simp] theorem appendSlot_res (d : Slot) : (s.appendSlot d).res = s.res := rfl
@[simp] theorem appendSlot_resh (d : Slot) : (s.appendSlot d).resh = s.resh := rfl
@[simp] theorem appendSlot_status (d : Slot) : (s.appendSlot d).status = s.status := rfl
@[simp] theorem appendSlot_muxState (d : Slot) : (s.appendSlot d).muxState = .built := rfl
@[simp] theorem appendSlot_muxCount (d : Slot) : (s.appendSlot d).muxCount = s.muxCount + 1#6 := rfl
@[simp] theorem appendSlot_muxOffset (d : Slot) : (s.appendSlot d).muxOffset = s.muxOffset + d.size := rfl
@[simp] theorem appendSlot_muxMaxbuf (d : Slot) : (s.appendSlot d).muxMaxbuf = s.muxMaxbuf := rfl
@[simp] theorem appendSlot_slots (d : Slot) : (s.appendSlot d).slots = s.slots.set s.muxCount.toNat d := rfl
@[simp] theorem appendSlot_mean (d : Slot) : (s.appendSlot d).mean = s.mean := rfl
@[simp] theorem appendSlot_rdo (d : Slot) : (s.appendSlot d).rdo = s.rdo := rfl
@[simp] theorem appendSlot_fb (d : Slot) : (s.appendSlot d).fb = s.fb := rfl
@[simp] theorem appendSlot_busy (d : Slot) : (s.appendSlot d).busy = s.busy := rfl
@[simp] theorem appendSlot_bus (d : Slot) : (s.appendSlot d).bus = s.bus := rfl
@[simp] theorem appendSlot_reply (d : Slot) : (s.appendSlot d).reply = s.reply := rfl
@[simp] theorem appendSlot_clients (d : Slot) : (s.appendSlot d).clients = s.clients := rfl
@[simp] theorem appendSlot_requests (d : Slot) : (s.appendSlot d).requests = s.requests := rfl
@[simp] theorem appendSlot_meanAt (d : Slot) (i : Nat) : (s.appendSlot d).meanAt i = s.meanAt i := rfl
@[simp] theorem appendSlot_rdoAt (d : Slot) (i : Nat) : (s.appendSlot d).rdoAt i = s.rdoAt i := rfl

@[simp] theorem setBusy_cfg (w : Option Wait) : (s.setBusy w).cfg = s.cfg := rfl
@[simp] theorem setBusy_opa (w : Option Wait) : (s.setBusy w).opa = s.opa := rfl
@[simp] theorem setBusy_opb (w : Option Wait) : (s.setBusy w).opb = s.opb := rfl
@[simp] theorem setBusy_res (w : Option Wait) : (s.setBusy w).res = s.res := rfl
@[simp] theorem setBusy_resh (w : Option Wait) : (s.setBusy w).resh = s.resh := rfl
@[simp] theorem setBusy_status (w : Option Wait) : (s.setBusy w).status = s.status := rfl
@[simp] theorem setBusy_muxState (w : Option Wait) : (s.setBusy w).muxState = s.muxState := rfl
@[simp] theorem setBusy_muxCount (w : Option Wait) : (s.setBusy w).muxCount = s.muxCount := rfl
@[simp] theorem setBusy_muxOffset (w : Option Wait) : (s.setBusy w).muxOffset = s.muxOffset := rfl
@[simp] theorem setBusy_muxMaxbuf (w : Option Wait) : (s.setBusy w).muxMaxbuf = s.muxMaxbuf := rfl
@[simp] theorem setBusy_slots (w : Option Wait) : (s.setBusy w).slots = s.slots := rfl
@[simp] theorem setBusy_mean (w : Option Wait) : (s.setBusy w).mean = s.mean := rfl
@[simp] theorem setBusy_rdo (w : Option Wait) : (s.setBusy w).rdo = s.rdo := rfl
@[simp] theorem setBusy_fb (w : Option Wait) : (s.setBusy w).fb = s.fb := rfl
@[simp] theorem setBusy_busy (w : Option Wait) : (s.setBusy w).busy = w := rfl
@[simp] theorem setBusy_bus (w : Option Wait) : (s.setBusy w).bus = s.bus := rfl
@[simp] theorem setBusy_reply (w : Option Wait) : (s.setBusy w).reply = s.reply := rfl
@[simp] theorem setBusy_clients (w : Option Wait) : (s.setBusy w).clients = s.clients := rfl
@[simp] theorem setBusy_requests (w : Option Wait) : (s.setBusy w).requests = s.requests := rfl
@[simp] theorem setBusy_slotAt (w : Option Wait) (i : Nat) : (s.setBusy w).slotAt i = s.slotAt i := rfl
@[simp] theorem setBusy_meanAt (w : Option Wait) (i : Nat) : (s.setBusy w).meanAt i = s.meanAt i := rfl
@[simp] theorem setBusy_rdoAt (w : Option Wait) (i : Nat) : (s.setBusy w).rdoAt i = s.rdoAt i := rfl

@[simp] theorem issue_cfg (q : ClientReq) : (s.issue q).cfg = s.cfg := rfl
@[simp] theorem issue_opa (q : ClientReq) : (s.issue q).opa = s.opa := rfl
@[simp] theorem issue_opb (q : ClientReq) : (s.issue q).opb = s.opb := rfl
@[simp] theorem issue_res (q : ClientReq) : (s.issue q).res = s.res := rfl
@[simp] theorem issue_resh (q : ClientReq) : (s.issue q).resh = s.resh := rfl
@[simp] theorem issue_status (q : ClientReq) : (s.issue q).status = s.status := rfl
@[simp] theorem issue_muxState (q : ClientReq) : (s.issue q).muxState = s.muxState := rfl
@[simp] theorem issue_muxCount (q : ClientReq) : (s.issue q).muxCount = s.muxCount := rfl
@[simp] theorem issue_muxOffset (q : ClientReq) : (s.issue q).muxOffset = s.muxOffset := rfl
@[simp] theorem issue_muxMaxbuf (q : ClientReq) : (s.issue q).muxMaxbuf = s.muxMaxbuf := rfl
@[simp] theorem issue_slots (q : ClientReq) : (s.issue q).slots = s.slots := rfl
@[simp] theorem issue_mean (q : ClientReq) : (s.issue q).mean = s.mean := rfl
@[simp] theorem issue_rdo (q : ClientReq) : (s.issue q).rdo = s.rdo := rfl
@[simp] theorem issue_fb (q : ClientReq) : (s.issue q).fb = s.fb := rfl
@[simp] theorem issue_busy (q : ClientReq) : (s.issue q).busy = s.busy := rfl
@[simp] theorem issue_bus (q : ClientReq) : (s.issue q).bus = s.bus := rfl
@[simp] theorem issue_reply (q : ClientReq) : (s.issue q).reply = s.reply := rfl
@[simp] theorem issue_clients (q : ClientReq) : (s.issue q).clients = s.clients := rfl
@[simp] theorem issue_requests (q : ClientReq) : (s.issue q).requests = s.requests ++ [q] := rfl
@[simp] theorem issue_slotAt (q : ClientReq) (i : Nat) : (s.issue q).slotAt i = s.slotAt i := rfl
@[simp] theorem issue_meanAt (q : ClientReq) (i : Nat) : (s.issue q).meanAt i = s.meanAt i := rfl
@[simp] theorem issue_rdoAt (q : ClientReq) (i : Nat) : (s.issue q).rdoAt i = s.rdoAt i := rfl

@[simp] theorem setClients_cfg (l : List ClientRsp) : (s.setClients l).cfg = s.cfg := rfl
@[simp] theorem setClients_opa (l : List ClientRsp) : (s.setClients l).opa = s.opa := rfl
@[simp] theorem setClients_opb (l : List ClientRsp) : (s.setClients l).opb = s.opb := rfl
@[simp] theorem setClients_res (l : List ClientRsp) : (s.setClients l).res = s.res := rfl
@[simp] theorem setClients_resh (l : List ClientRsp) : (s.setClients l).resh = s.resh := rfl
@[simp] theorem setClients_status (l : List ClientRsp) : (s.setClients l).status = s.status := rfl
@[simp] theorem setClients_muxState (l : List ClientRsp) : (s.setClients l).muxState = s.muxState := rfl
@[simp] theorem setClients_muxCount (l : List ClientRsp) : (s.setClients l).muxCount = s.muxCount := rfl
@[simp] theorem setClients_muxOffset (l : List ClientRsp) : (s.setClients l).muxOffset = s.muxOffset := rfl
@[simp] theorem setClients_muxMaxbuf (l : List ClientRsp) : (s.setClients l).muxMaxbuf = s.muxMaxbuf := rfl
@[simp] theorem setClients_slots (l : List ClientRsp) : (s.setClients l).slots = s.slots := rfl
@[simp] theorem setClients_mean (l : List ClientRsp) : (s.setClients l).mean = s.mean := rfl
@[simp] theorem setClients_rdo (l : List ClientRsp) : (s.setClients l).rdo = s.rdo := rfl
@[simp] theorem setClients_fb (l : List ClientRsp) : (s.setClients l).fb = s.fb := rfl
@[simp] theorem setClients_busy (l : List ClientRsp) : (s.setClients l).busy = s.busy := rfl
@[simp] theorem setClients_bus (l : List ClientRsp) : (s.setClients l).bus = s.bus := rfl
@[simp] theorem setClients_reply (l : List ClientRsp) : (s.setClients l).reply = s.reply := rfl
@[simp] theorem setClients_clients (l : List ClientRsp) : (s.setClients l).clients = l := rfl
@[simp] theorem setClients_requests (l : List ClientRsp) : (s.setClients l).requests = s.requests := rfl
@[simp] theorem setClients_slotAt (l : List ClientRsp) (i : Nat) : (s.setClients l).slotAt i = s.slotAt i := rfl
@[simp] theorem setClients_meanAt (l : List ClientRsp) (i : Nat) : (s.setClients l).meanAt i = s.meanAt i := rfl
@[simp] theorem setClients_rdoAt (l : List ClientRsp) (i : Nat) : (s.setClients l).rdoAt i = s.rdoAt i := rfl

@[simp] theorem takeEvent_cfg (l : List Event) : (s.takeEvent l).cfg = s.cfg := rfl
@[simp] theorem takeEvent_opa (l : List Event) : (s.takeEvent l).opa = s.opa := rfl
@[simp] theorem takeEvent_opb (l : List Event) : (s.takeEvent l).opb = s.opb := rfl
@[simp] theorem takeEvent_res (l : List Event) : (s.takeEvent l).res = s.res := rfl
@[simp] theorem takeEvent_resh (l : List Event) : (s.takeEvent l).resh = s.resh := rfl
@[simp] theorem takeEvent_status (l : List Event) : (s.takeEvent l).status = s.status := rfl
@[simp] theorem takeEvent_muxState (l : List Event) : (s.takeEvent l).muxState = s.muxState := rfl
@[simp] theorem takeEvent_muxCount (l : List Event) : (s.takeEvent l).muxCount = s.muxCount := rfl
@[simp] theorem takeEvent_muxOffset (l : List Event) : (s.takeEvent l).muxOffset = s.muxOffset := rfl
@[simp] theorem takeEvent_muxMaxbuf (l : List Event) : (s.takeEvent l).muxMaxbuf = s.muxMaxbuf := rfl
@[simp] theorem takeEvent_slots (l : List Event) : (s.takeEvent l).slots = s.slots := rfl
@[simp] theorem takeEvent_mean (l : List Event) : (s.takeEvent l).mean = s.mean := rfl
@[simp] theorem takeEvent_rdo (l : List Event) : (s.takeEvent l).rdo = s.rdo := rfl
@[simp] theorem takeEvent_fb (l : List Event) : (s.takeEvent l).fb = s.fb := rfl
@[simp] theorem takeEvent_busy (l : List Event) : (s.takeEvent l).busy = s.busy := rfl
@[simp] theorem takeEvent_bus (l : List Event) : (s.takeEvent l).bus = l := rfl
@[simp] theorem takeEvent_reply (l : List Event) : (s.takeEvent l).reply = none := rfl
@[simp] theorem takeEvent_clients (l : List Event) : (s.takeEvent l).clients = s.clients := rfl
@[simp] theorem takeEvent_requests (l : List Event) : (s.takeEvent l).requests = s.requests := rfl
@[simp] theorem takeEvent_slotAt (l : List Event) (i : Nat) : (s.takeEvent l).slotAt i = s.slotAt i := rfl
@[simp] theorem takeEvent_meanAt (l : List Event) (i : Nat) : (s.takeEvent l).meanAt i = s.meanAt i := rfl
@[simp] theorem takeEvent_rdoAt (l : List Event) (i : Nat) : (s.takeEvent l).rdoAt i = s.rdoAt i := rfl

@[simp] theorem setReply_cfg (v : Word) : (s.setReply v).cfg = s.cfg := rfl
@[simp] theorem setReply_opa (v : Word) : (s.setReply v).opa = s.opa := rfl
@[simp] theorem setReply_opb (v : Word) : (s.setReply v).opb = s.opb := rfl
@[simp] theorem setReply_res (v : Word) : (s.setReply v).res = s.res := rfl
@[simp] theorem setReply_resh (v : Word) : (s.setReply v).resh = s.resh := rfl
@[simp] theorem setReply_status (v : Word) : (s.setReply v).status = s.status := rfl
@[simp] theorem setReply_muxState (v : Word) : (s.setReply v).muxState = s.muxState := rfl
@[simp] theorem setReply_muxCount (v : Word) : (s.setReply v).muxCount = s.muxCount := rfl
@[simp] theorem setReply_muxOffset (v : Word) : (s.setReply v).muxOffset = s.muxOffset := rfl
@[simp] theorem setReply_muxMaxbuf (v : Word) : (s.setReply v).muxMaxbuf = s.muxMaxbuf := rfl
@[simp] theorem setReply_slots (v : Word) : (s.setReply v).slots = s.slots := rfl
@[simp] theorem setReply_mean (v : Word) : (s.setReply v).mean = s.mean := rfl
@[simp] theorem setReply_rdo (v : Word) : (s.setReply v).rdo = s.rdo := rfl
@[simp] theorem setReply_fb (v : Word) : (s.setReply v).fb = s.fb := rfl
@[simp] theorem setReply_busy (v : Word) : (s.setReply v).busy = s.busy := rfl
@[simp] theorem setReply_bus (v : Word) : (s.setReply v).bus = s.bus := rfl
@[simp] theorem setReply_reply (v : Word) : (s.setReply v).reply = some v := rfl
@[simp] theorem setReply_clients (v : Word) : (s.setReply v).clients = s.clients := rfl
@[simp] theorem setReply_requests (v : Word) : (s.setReply v).requests = s.requests := rfl
@[simp] theorem setReply_slotAt (v : Word) (i : Nat) : (s.setReply v).slotAt i = s.slotAt i := rfl
@[simp] theorem setReply_meanAt (v : Word) (i : Nat) : (s.setReply v).meanAt i = s.meanAt i := rfl
@[simp] theorem setReply_rdoAt (v : Word) (i : Nat) : (s.setReply v).rdoAt i = s.rdoAt i := rfl

@[simp] theorem busFault_cfg (c : FaultCode) : (s.busFault c).cfg = s.cfg := rfl
@[simp] theorem busFault_opa (c : FaultCode) : (s.busFault c).opa = s.opa := rfl
@[simp] theorem busFault_opb (c : FaultCode) : (s.busFault c).opb = s.opb := rfl
@[simp] theorem busFault_res (c : FaultCode) : (s.busFault c).res = s.res := rfl
@[simp] theorem busFault_resh (c : FaultCode) : (s.busFault c).resh = s.resh := rfl
@[simp] theorem busFault_status (c : FaultCode) : (s.busFault c).status = s.status.record c := rfl
@[simp] theorem busFault_muxState (c : FaultCode) : (s.busFault c).muxState = s.muxState := rfl
@[simp] theorem busFault_muxCount (c : FaultCode) : (s.busFault c).muxCount = s.muxCount := rfl
@[simp] theorem busFault_muxOffset (c : FaultCode) : (s.busFault c).muxOffset = s.muxOffset := rfl
@[simp] theorem busFault_muxMaxbuf (c : FaultCode) : (s.busFault c).muxMaxbuf = s.muxMaxbuf := rfl
@[simp] theorem busFault_slots (c : FaultCode) : (s.busFault c).slots = s.slots := rfl
@[simp] theorem busFault_mean (c : FaultCode) : (s.busFault c).mean = s.mean := rfl
@[simp] theorem busFault_rdo (c : FaultCode) : (s.busFault c).rdo = s.rdo := rfl
@[simp] theorem busFault_fb (c : FaultCode) : (s.busFault c).fb = s.fb := rfl
@[simp] theorem busFault_busy (c : FaultCode) : (s.busFault c).busy = s.busy := rfl
@[simp] theorem busFault_bus (c : FaultCode) : (s.busFault c).bus = s.bus := rfl
@[simp] theorem busFault_reply (c : FaultCode) : (s.busFault c).reply = s.reply := rfl
@[simp] theorem busFault_clients (c : FaultCode) : (s.busFault c).clients = s.clients := rfl
@[simp] theorem busFault_requests (c : FaultCode) : (s.busFault c).requests = s.requests := rfl
@[simp] theorem busFault_slotAt (c : FaultCode) (i : Nat) : (s.busFault c).slotAt i = s.slotAt i := rfl
@[simp] theorem busFault_meanAt (c : FaultCode) (i : Nat) : (s.busFault c).meanAt i = s.meanAt i := rfl
@[simp] theorem busFault_rdoAt (c : FaultCode) (i : Nat) : (s.busFault c).rdoAt i = s.rdoAt i := rfl

@[simp] theorem platformReset_cfg : s.platformReset.cfg = s.cfg := rfl
@[simp] theorem platformReset_opa : s.platformReset.opa = none := rfl
@[simp] theorem platformReset_opb : s.platformReset.opb = none := rfl
@[simp] theorem platformReset_res : s.platformReset.res = none := rfl
@[simp] theorem platformReset_resh : s.platformReset.resh = none := rfl
@[simp] theorem platformReset_status : s.platformReset.status = Status.zero := rfl
@[simp] theorem platformReset_muxState : s.platformReset.muxState = .unconfigured := rfl
@[simp] theorem platformReset_muxCount : s.platformReset.muxCount = 0#6 := rfl
@[simp] theorem platformReset_muxOffset : s.platformReset.muxOffset = 0#16 := rfl
@[simp] theorem platformReset_muxMaxbuf : s.platformReset.muxMaxbuf = 0#16 := rfl
@[simp] theorem platformReset_slots : s.platformReset.slots = List.replicate s.cfg.muxMaxSlots Slot.zero := rfl
@[simp] theorem platformReset_mean : s.platformReset.mean = List.replicate s.cfg.meanCount Mean.zero := rfl
@[simp] theorem platformReset_rdo : s.platformReset.rdo = List.replicate s.cfg.rdoCount Rdo.zero := rfl
@[simp] theorem platformReset_fb : s.platformReset.fb = [] := rfl
@[simp] theorem platformReset_busy : s.platformReset.busy = none := rfl
@[simp] theorem platformReset_bus : s.platformReset.bus = s.bus := rfl
@[simp] theorem platformReset_reply : s.platformReset.reply = none := rfl
@[simp] theorem platformReset_clients : s.platformReset.clients = s.clients := rfl
@[simp] theorem platformReset_requests : s.platformReset.requests = s.requests := rfl

@[simp] theorem resetWith_cfg (c : Config) : (State.resetWith c).cfg = c := rfl
@[simp] theorem resetWith_opa (c : Config) : (State.resetWith c).opa = none := rfl
@[simp] theorem resetWith_opb (c : Config) : (State.resetWith c).opb = none := rfl
@[simp] theorem resetWith_res (c : Config) : (State.resetWith c).res = none := rfl
@[simp] theorem resetWith_resh (c : Config) : (State.resetWith c).resh = none := rfl
@[simp] theorem resetWith_status (c : Config) : (State.resetWith c).status = Status.zero := rfl
@[simp] theorem resetWith_muxState (c : Config) : (State.resetWith c).muxState = .unconfigured := rfl
@[simp] theorem resetWith_muxCount (c : Config) : (State.resetWith c).muxCount = 0#6 := rfl
@[simp] theorem resetWith_muxOffset (c : Config) : (State.resetWith c).muxOffset = 0#16 := rfl
@[simp] theorem resetWith_muxMaxbuf (c : Config) : (State.resetWith c).muxMaxbuf = 0#16 := rfl
@[simp] theorem resetWith_slots (c : Config) : (State.resetWith c).slots = List.replicate c.muxMaxSlots Slot.zero := rfl
@[simp] theorem resetWith_mean (c : Config) : (State.resetWith c).mean = List.replicate c.meanCount Mean.zero := rfl
@[simp] theorem resetWith_rdo (c : Config) : (State.resetWith c).rdo = List.replicate c.rdoCount Rdo.zero := rfl
@[simp] theorem resetWith_fb (c : Config) : (State.resetWith c).fb = [] := rfl
@[simp] theorem resetWith_busy (c : Config) : (State.resetWith c).busy = none := rfl
@[simp] theorem resetWith_bus (c : Config) : (State.resetWith c).bus = [] := rfl
@[simp] theorem resetWith_reply (c : Config) : (State.resetWith c).reply = none := rfl
@[simp] theorem resetWith_clients (c : Config) : (State.resetWith c).clients = [] := rfl
@[simp] theorem resetWith_requests (c : Config) : (State.resetWith c).requests = [] := rfl

@[simp] theorem present_cfg (w : Word) : (s.present w).cfg = s.cfg := rfl
@[simp] theorem present_opa (w : Word) : (s.present w).opa = s.opa := rfl
@[simp] theorem present_opb (w : Word) : (s.present w).opb = s.opb := rfl
@[simp] theorem present_res (w : Word) : (s.present w).res = s.res := rfl
@[simp] theorem present_resh (w : Word) : (s.present w).resh = s.resh := rfl
@[simp] theorem present_status (w : Word) : (s.present w).status = { s.status with fault := false, fcode := 0#8 } := rfl
@[simp] theorem present_muxState (w : Word) : (s.present w).muxState = s.muxState := rfl
@[simp] theorem present_muxCount (w : Word) : (s.present w).muxCount = s.muxCount := rfl
@[simp] theorem present_muxOffset (w : Word) : (s.present w).muxOffset = s.muxOffset := rfl
@[simp] theorem present_muxMaxbuf (w : Word) : (s.present w).muxMaxbuf = s.muxMaxbuf := rfl
@[simp] theorem present_slots (w : Word) : (s.present w).slots = s.slots := rfl
@[simp] theorem present_mean (w : Word) : (s.present w).mean = s.mean := rfl
@[simp] theorem present_rdo (w : Word) : (s.present w).rdo = s.rdo := rfl
@[simp] theorem present_fb (w : Word) : (s.present w).fb = s.fb := rfl
@[simp] theorem present_busy (w : Word) : (s.present w).busy = none := rfl
@[simp] theorem present_bus (w : Word) : (s.present w).bus = .write (s.cfg.fxmuxBase + Reg.cmd.offset) 32 w :: s.bus := rfl
@[simp] theorem present_reply (w : Word) : (s.present w).reply = s.reply := rfl
@[simp] theorem present_clients (w : Word) : (s.present w).clients = s.clients := rfl
@[simp] theorem present_requests (w : Word) : (s.present w).requests = s.requests := rfl

/-- Reading the accumulator just written. -/
theorem setMean_meanAt_same (k : Nat) (v : Mean) (h : k < s.mean.length) : (s.setMean k v).meanAt k = v := by
  simp [State.meanAt, h]

/-- Every other accumulator is as before. -/
theorem setMean_meanAt_ne (k j : Nat) (v : Mean) (h : j ≠ k) : (s.setMean k v).meanAt j = s.meanAt j := by
  simp [State.meanAt, List.getElem?_set_ne (Ne.symm h)]

/-- Reading the engine just written. -/
theorem setRdo_rdoAt_same (k : Nat) (v : Rdo) (h : k < s.rdo.length) : (s.setRdo k v).rdoAt k = v := by
  simp [State.rdoAt, h]

/-- Every other engine is as before. -/
theorem setRdo_rdoAt_ne (k j : Nat) (v : Rdo) (h : j ≠ k) : (s.setRdo k v).rdoAt j = s.rdoAt j := by
  simp [State.rdoAt, List.getElem?_set_ne (Ne.symm h)]

/-- Reading the descriptor just appended. -/
theorem appendSlot_slotAt_new (d : Slot) (h : s.muxCount.toNat < s.slots.length) :
    (s.appendSlot d).slotAt s.muxCount.toNat = d := by
  simp [State.slotAt, h]

/-- Every other descriptor is as before (10_state.md rule R33). -/
theorem appendSlot_slotAt_ne (d : Slot) (j : Nat) (h : j ≠ s.muxCount.toNat) :
    (s.appendSlot d).slotAt j = s.slotAt j := by
  simp [State.slotAt, List.getElem?_set_ne (Ne.symm h)]

end Sys2Proof.Machine
end

