-- ==== Sys2Proof/Laws/Ops.lean ====
section
/-! SUPPORT. For each shared operation, once, everything it can do; later proofs cite these instead of
unfolding the operation. -/

namespace Sys2Proof.Machine

/-! ### STATUS -/

@[simp] theorem complete_code (st : Status) (o : StatusOutcome) (d : Bool) :
    (st.complete o d).code = o.byte := rfl
@[simp] theorem complete_defaulted (st : Status) (o : StatusOutcome) (d : Bool) :
    (st.complete o d).defaulted = d := rfl
@[simp] theorem complete_fcode (st : Status) (o : StatusOutcome) (d : Bool) :
    (st.complete o d).fcode = st.fcode := rfl
@[simp] theorem complete_fault (st : Status) (o : StatusOutcome) (d : Bool) :
    (st.complete o d).fault = st.fault := rfl
@[simp] theorem commandFault_code (st : Status) (c : FaultCode) : (st.commandFault c).code = c.byte := rfl
@[simp] theorem commandFault_defaulted (st : Status) (c : FaultCode) :
    (st.commandFault c).defaulted = false := rfl

@[simp] theorem record_fault (st : Status) (c : FaultCode) : (st.record c).fault = true := by
  unfold Status.record; split <;> simp_all

theorem record_fcode (st : Status) (c : FaultCode) :
    (st.record c).fcode = if st.fault then st.fcode else c.byte := by
  unfold Status.record; split <;> rfl

@[simp] theorem record_code (st : Status) (c : FaultCode) : (st.record c).code = st.code := by
  unfold Status.record; split <;> rfl

@[simp] theorem record_defaulted (st : Status) (c : FaultCode) :
    (st.record c).defaulted = st.defaulted := by
  unfold Status.record; split <;> rfl

@[simp] theorem commandFault_fault (st : Status) (c : FaultCode) : (st.commandFault c).fault = true :=
  record_fault st c

theorem commandFault_fcode (st : Status) (c : FaultCode) :
    (st.commandFault c).fcode = if st.fault then st.fcode else c.byte := record_fcode st c

/-- A second fault leaves the fault record of the first (60_exceptions.md rule R214). -/
theorem record_of_fault (st : Status) (c : FaultCode) (h : st.fault = true) : st.record c = st := by
  simp [Status.record, h]

/-! ### Ending a command -/

/-- Completing answers one state. -/
theorem complete_next {o : StatusOutcome} {d : Bool} {s t : State} :
    complete o d s = .next t ↔ t = s.setStatus (s.status.complete o d) := by
  simp [complete, eq_comm]

/-- Raising a fault answers one state. -/
theorem raise_next {c : FaultCode} {s t : State} :
    raise c s = .next t ↔ t = s.setStatus (s.status.commandFault c) := by
  simp [raise, eq_comm]

/-! ### Operands and checks -/

theorem withA_some {s : State} {k : Word → Result} {a : Word} (h : s.opa = some a) : withA s k = k a := by
  simp [withA, h]

theorem withB_some {s : State} {k : Word → Result} {b : Word} (h : s.opb = some b) : withB s k = k b := by
  simp [withB, h]

/-- Reading OPA goes on with its value or raises OPERAND_UNWRITTEN. -/
theorem withA_cases (s : State) (k : Word → Result) :
    (∃ a, s.opa = some a ∧ withA s k = k a) ∨ (s.opa = none ∧ withA s k = raise .operandUnwritten s) := by
  cases h : s.opa <;> simp [withA, h]

/-- Reading OPB goes on with its value or raises OPERAND_UNWRITTEN. -/
theorem withB_cases (s : State) (k : Word → Result) :
    (∃ b, s.opb = some b ∧ withB s k = k b) ∨ (s.opb = none ∧ withB s k = raise .operandUnwritten s) := by
  cases h : s.opb <;> simp [withB, h]

theorem needFormat_of {f : Fmt} {s : State} {k : Result} (h : f.Legal) : needFormat f s k = k := by
  simp [needFormat, h]

theorem needFormat_cases (f : Fmt) (s : State) (k : Result) :
    (f.Legal ∧ needFormat f s k = k) ∨ (¬ f.Legal ∧ needFormat f s k = raise .illegalFormat s) := by
  by_cases h : f.Legal <;> simp [needFormat, h]

theorem needMean_of {m : BitVec 8} {s : State} {k : Result} (h : m.toNat < s.cfg.meanCount) :
    needMean m s k = k := by
  simp [needMean, h]

theorem needMean_cases (m : BitVec 8) (s : State) (k : Result) :
    (m.toNat < s.cfg.meanCount ∧ needMean m s k = k) ∨
      (¬ m.toNat < s.cfg.meanCount ∧ needMean m s k = raise .badSelect s) := by
  by_cases h : m.toNat < s.cfg.meanCount <;> simp [needMean, h]

theorem needRdo_of {e : BitVec 8} {s : State} {k : Result} (h : e.toNat < s.cfg.rdoCount) :
    needRdo e s k = k := by
  simp [needRdo, h]

theorem needRdo_cases (e : BitVec 8) (s : State) (k : Result) :
    (e.toNat < s.cfg.rdoCount ∧ needRdo e s k = k) ∨
      (¬ e.toNat < s.cfg.rdoCount ∧ needRdo e s k = raise .badSelect s) := by
  by_cases h : e.toNat < s.cfg.rdoCount <;> simp [needRdo, h]

theorem needMeanValid_of {m : BitVec 8} {s : State} {k : Result} (h : (s.meanAt m.toNat).valid = true) :
    needMeanValid m s k = k := by
  simp [needMeanValid, h]

theorem needMeanValid_cases (m : BitVec 8) (s : State) (k : Result) :
    ((s.meanAt m.toNat).valid = true ∧ needMeanValid m s k = k) ∨
      ((s.meanAt m.toNat).valid = false ∧ needMeanValid m s k = raise .notInitialised s) := by
  cases h : (s.meanAt m.toNat).valid <;> simp [needMeanValid, h]

theorem needRdoValid_of {e : BitVec 8} {s : State} {k : Result} (h : (s.rdoAt e.toNat).valid = true) :
    needRdoValid e s k = k := by
  simp [needRdoValid, h]

theorem needRdoValid_cases (e : BitVec 8) (s : State) (k : Result) :
    ((s.rdoAt e.toNat).valid = true ∧ needRdoValid e s k = k) ∨
      ((s.rdoAt e.toNat).valid = false ∧ needRdoValid e s k = raise .notInitialised s) := by
  cases h : (s.rdoAt e.toNat).valid <;> simp [needRdoValid, h]

theorem needTable_of {s : State} {k : Result} (h : s.muxState ≠ .unconfigured) : needTable s k = k := by
  simp [needTable, h]

theorem needTable_cases (s : State) (k : Result) :
    (s.muxState ≠ .unconfigured ∧ needTable s k = k) ∨
      (s.muxState = .unconfigured ∧ needTable s k = raise .notInitialised s) := by
  by_cases h : s.muxState = .unconfigured <;> simp [needTable, h]

/-! ### Engines -/

/-- A valid engine stands in the table. -/
theorem lt_of_rdoAt_valid {s : State} {e : Nat} (h : (s.rdoAt e).valid = true) : e < s.rdo.length := by
  by_contra hc
  simp [State.rdoAt, List.getElem?_eq_none (Nat.le_of_not_lt hc), Rdo.zero] at h

/-- A valid accumulator stands in the table. -/
theorem lt_of_meanAt_valid {s : State} {m : Nat} (h : (s.meanAt m).valid = true) : m < s.mean.length := by
  by_contra hc
  simp [State.meanAt, List.getElem?_eq_none (Nat.le_of_not_lt hc), Mean.zero] at h

@[simp] theorem advanced_rollover (r : Rdo) : r.advanced.rollover = r.rollover := rfl
@[simp] theorem advanced_enabled (r : Rdo) : r.advanced.enabled = r.enabled := rfl
@[simp] theorem advanced_valid (r : Rdo) : r.advanced.valid = r.valid := rfl

/-- The advanced offset (42_rdo_client.md rule R162), with no wrap. -/
theorem advanced_offset (r : Rdo) (h : r.rollover ≠ 0#16) :
    r.advanced.offset.toNat = (r.offset.toNat + 1) % r.rollover.toNat := by
  have hp : 0 < r.rollover.toNat := by
    rcases Nat.eq_zero_or_pos r.rollover.toNat with h0 | h0
    · exact absurd (BitVec.eq_of_toNat_eq h0) h
    · exact h0
  have h1 := Nat.mod_lt (r.offset.toNat + 1) hp
  have h2 := r.rollover.isLt
  simp only [Rdo.advanced, BitVec.toNat_ofNat]
  exact Nat.mod_eq_of_lt (by omega)

/-! ### Dispatch -/

/-- The checks of a dispatch to port 1: one of three faults, or on. -/
theorem needEngine_cases (d : Slot) (s : State) (k : Walk) :
    (s.cfg.rdoCount ≤ d.inst.toNat ∧ needEngine d s k = .stop .unboundHandler s) ∨
    (d.inst.toNat < s.cfg.rdoCount ∧ (s.rdoAt d.inst.toNat).valid = false ∧
      needEngine d s k = .stop .notInitialised s) ∨
    (d.inst.toNat < s.cfg.rdoCount ∧ (s.rdoAt d.inst.toNat).valid = true ∧ d.size ≠ 2#16 ∧
      needEngine d s k = .stop .sizeMismatch s) ∨
    (d.inst.toNat < s.cfg.rdoCount ∧ (s.rdoAt d.inst.toNat).valid = true ∧ d.size = 2#16 ∧
      needEngine d s k = k) := by
  unfold needEngine
  by_cases h1 : s.cfg.rdoCount ≤ d.inst.toNat
  · simp [h1]
  · cases h2 : (s.rdoAt d.inst.toNat).valid
    · simp [h1, Nat.lt_of_not_le h1]
    · by_cases h3 : d.size = 2#16 <;> simp [h1, h3, Nat.lt_of_not_le h1]

/-- What MUX_SEND does at a slot whose SendReq is out: it takes an answer of exactly SIZE bytes, or waits
with nothing changed. -/
theorem takeSendRsp_cases (i : Nat) (s : State) :
    (∃ bs rest, s.clients = .sendRsp bs :: rest ∧ bs.length = (s.slotAt i).size.toNat ∧
      takeSendRsp i s =
        .done ((s.setFb (Memory.writeBytes s.fb (s.slotAt i).index.toNat bs)).setClients rest)) ∨
    takeSendRsp i s = .wait (.sendRsp i) s := by
  unfold takeSendRsp
  split
  · rename_i bs rest h
    by_cases hl : bs.length = (s.slotAt i).size.toNat
    · exact .inl ⟨bs, rest, h, hl, by simp [hl]⟩
    · exact .inr (by simp [hl])
  · exact .inr rfl

/-- What MUX_RECV does at a slot whose RecvReq is out: it takes the RecvAck, or waits with nothing
changed. -/
theorem takeRecvAck_cases (i : Nat) (s : State) :
    (∃ rest, s.clients = .recvAck :: rest ∧ takeRecvAck i s = .done (s.setClients rest)) ∨
    takeRecvAck i s = .wait (.recvAck i) s := by
  unfold takeRecvAck
  split
  · rename_i rest h
    exact .inl ⟨rest, h, rfl⟩
  · exact .inr rfl

/-- A run of no dispatches. -/
@[simp] theorem walkSlots_zero (dispatch : Nat → State → Walk) (i : Nat) (s : State) :
    walkSlots dispatch 0 i s = .done s := rfl

/-- A run whose first dispatch completes goes on with the next slot. -/
theorem walkSlots_of_done {dispatch : Nat → State → Walk} {n i : Nat} {s t : State}
    (h : dispatch i s = .done t) : walkSlots dispatch (n + 1) i s = walkSlots dispatch n (i + 1) t := by
  simp [walkSlots, h]

/-- A run whose first dispatch does not complete ends there. -/
theorem walkSlots_of_ne {dispatch : Nat → State → Walk} {n i : Nat} {s : State}
    (h : ∀ t, dispatch i s ≠ .done t) : walkSlots dispatch (n + 1) i s = dispatch i s := by
  unfold walkSlots
  split
  · rename_i t ht
    exact absurd ht (h t)
  · rfl

/-- The state a run ends in, whatever way it ends. -/
def Walk.state (w : Walk) : State :=
  match w with
  | .done s => s
  | .stop _ s => s
  | .wait _ s => s

@[simp] theorem Walk.state_done (s : State) : (Walk.done s).state = s := rfl
@[simp] theorem Walk.state_stop (c : FaultCode) (s : State) : (Walk.stop c s).state = s := rfl
@[simp] theorem Walk.state_wait (q : Wait) (s : State) : (Walk.wait q s).state = s := rfl

/-- What every dispatch of a run keeps, the run keeps (packaged once). -/
theorem walkSlots_keeps {dispatch : Nat → State → Walk} {P : State → Prop}
    (hd : ∀ i s, P s → P (dispatch i s).state) (n i : Nat) (s : State) (hs : P s) :
    P (walkSlots dispatch n i s).state := by
  induction n generalizing i s with
  | zero => exact hs
  | succ n ih =>
    have h := hd i s hs
    unfold walkSlots
    split
    · rename_i t ht
      rw [ht] at h
      exact ih _ _ h
    · exact h

/-! ### The bus -/

/-- What one step does: a platform reset, the continuation of a waiting command, the next host access, or
nothing. -/
theorem step_cases (s : State) :
    (∃ rest, s.bus = .reset :: rest ∧ step s = .next (s.takeEvent rest).platformReset) ∨
    (∃ w, s.busy = some w ∧ (∀ rest, s.bus ≠ .reset :: rest) ∧ step s = resume w s) ∨
    (∃ ev rest, s.busy = none ∧ s.bus = ev :: rest ∧ ev ≠ .reset ∧
      step s = takeStep ev (s.takeEvent rest)) ∨
    (s.busy = none ∧ s.bus = [] ∧ step s = .next s) := by
  unfold step blockStep
  split
  · rename_i _ rest h
    exact .inl ⟨rest, h, rfl⟩
  · rename_i w hb hne
    exact .inr (.inl ⟨w, hb, fun rest hr => hne rest hr, rfl⟩)
  · rename_i ev rest hne hbus hbusy
    exact .inr (.inr (.inl ⟨ev, rest, hbusy, hbus, hne, rfl⟩))
  · rename_i hbus hbusy
    exact .inr (.inr (.inr ⟨hbusy, hbus, rfl⟩))

/-- A host read either returns data and changes nothing else, or faults with 0 and changes nothing but the
fault record. -/
theorem hostRead_cases (off width : Nat) (s : State) :
    (∃ v, hostRead off width s = s.setReply v) ∨
    (∃ c, (c = .badAccess ∨ c = .unwrittenRead) ∧ hostRead off width s = (s.busFault c).setReply 0#32) := by
  unfold hostRead
  split
  · exact .inr ⟨_, .inl rfl, rfl⟩
  · split
    · exact .inl ⟨_, rfl⟩
    · exact .inr ⟨_, .inr rfl, rfl⟩
  · split
    · exact .inl ⟨_, rfl⟩
    · exact .inr ⟨_, .inr rfl, rfl⟩

/-- A host write presents a command, writes an operand or a frame-buffer byte, or faults. -/
theorem hostWrite_cases (off width : Nat) (data : Word) (s : State) :
    hostWrite off width data s = writeCmd data s ∨
    hostWrite off width data s = .next (s.setOpa data) ∨
    hostWrite off width data s = .next (s.setOpb data) ∨
    (∃ a, a < s.cfg.fbBytes ∧
      hostWrite off width data s = .next (s.setFb (Memory.write s.fb a (data.setWidth 8)))) ∨
    hostWrite off width data s = .next (s.busFault .badAccess) := by
  unfold hostWrite
  split
  · exact .inl rfl
  · exact .inr (.inl rfl)
  · exact .inr (.inr (.inl rfl))
  · exact .inr (.inr (.inr (.inr rfl)))
  · rename_i a h
    refine .inr (.inr (.inr (.inl ⟨a, ?_, rfl⟩)))
    unfold target at h
    split at h
    · split at h
      · rename_i h2
        simp only [Target.byte.injEq] at h
        omega
      · exact absurd h (by simp)
    · split at h
      · split at h <;> exact absurd h (by simp)
      · exact absurd h (by simp)
  · exact .inr (.inr (.inr (.inr rfl)))

/-- A write to CMD is ignored, raises ILLEGAL_COMMAND, or runs the decoded command. -/
theorem writeCmd_cases (w : Word) (s : State) :
    (s.status.fault = true ∧ writeCmd w s = .next s) ∨
    (s.status.fault = false ∧ (∃ e, decode w = .error e) ∧ writeCmd w s = raise .illegalCommand s) ∨
    (s.status.fault = false ∧ ∃ i, decode w = .ok i ∧ writeCmd w s = exec i s) := by
  unfold writeCmd
  cases hf : s.status.fault
  · cases hd : decode w with
    | error e => refine .inr (.inl ⟨rfl, ⟨e, rfl⟩, ?_⟩); cases e <;> simp [faultOfDecode]
    | ok i => exact .inr (.inr ⟨rfl, i, rfl, by simp⟩)
  · exact .inl ⟨rfl, by simp⟩

end Sys2Proof.Machine
end

