-- ==== Sys2Proof/Laws/Dispatch.lean ====
section
/-! SUPPORT. What a run of dispatches can change (43_multiplexer.md section 3): the frame of MUX_SEND and
MUX_RECV, said once. -/

namespace Sys2Proof.Machine

/-- `t` differs from `s` at most in what dispatches write: FB, the engines, the answers taken and the requests
issued. -/
def DispatchFrame (s t : State) : Prop :=
  t = { s with fb := t.fb, rdo := t.rdo, clients := t.clients, requests := t.requests }

theorem DispatchFrame.refl (s : State) : DispatchFrame s s := rfl

theorem DispatchFrame.trans {s t u : State} (h1 : DispatchFrame s t) (h2 : DispatchFrame t u) :
    DispatchFrame s u := by
  unfold DispatchFrame at *
  rw [h2, h1]

/-- A send dispatch to port 1, once its checks have passed. -/
theorem rdoSend_cases (d : Slot) (s : State) :
    (∃ c, rdoSend d s = .stop c s) ∨
    (d.inst.toNat < s.cfg.rdoCount ∧ (s.rdoAt d.inst.toNat).valid = true ∧ d.size = 2#16 ∧
      rdoSend d s = .done ((adv d.inst.toNat s).setFb (Memory.writeBytes s.fb d.index.toNat
        (rdoField (s.rdoAt d.inst.toNat).advanced.offset)))) := by
  unfold rdoSend
  rcases needEngine_cases d s _ with ⟨_, h⟩ | ⟨_, _, h⟩ | ⟨_, _, _, h⟩ | ⟨h1, h2, h3, h⟩
  · exact .inl ⟨_, h⟩
  · exact .inl ⟨_, h⟩
  · exact .inl ⟨_, h⟩
  · refine .inr ⟨h1, h2, h3, h.trans ?_⟩
    simp [adv, setRdo_rdoAt_same _ _ _ (lt_of_rdoAt_valid h2)]

/-- A receive dispatch to port 1: a fault with nothing changed, or the received offset stored. -/
theorem rdoRecv_cases (d : Slot) (s : State) :
    (∃ c, rdoRecv d s = .stop c s) ∨
    (∃ hiB loB, d.inst.toNat < s.cfg.rdoCount ∧ (s.rdoAt d.inst.toNat).valid = true ∧ d.size = 2#16 ∧
      Memory.read s.fb d.index.toNat = some hiB ∧ Memory.read s.fb (d.index.toNat + 1) = some loB ∧
      rdoRecv d s = .done (s.setRdo d.inst.toNat { s.rdoAt d.inst.toNat with offset := hiB ++ loB })) := by
  unfold rdoRecv
  rcases needEngine_cases d s _ with ⟨_, h⟩ | ⟨_, _, h⟩ | ⟨_, _, _, h⟩ | ⟨h1, h2, h3, h⟩
  · exact .inl ⟨_, h⟩
  · exact .inl ⟨_, h⟩
  · exact .inl ⟨_, h⟩
  · rw [h]
    split
    · rename_i hiB loB hh hl
      refine .inr ⟨hiB, loB, h1, h2, h3, hh, hl, ?_⟩
      simp only [adv, setRdo_rdoAt_same _ _ _ (lt_of_rdoAt_valid h2)]
      simp [State.setRdo, Rdo.advanced]
    · exact .inl ⟨_, rfl⟩

/-- Everything a send dispatch can do: stop with nothing changed, serve the slot's engine, take the client's
answer, or wait with the request issued. -/
theorem sendDispatch_cases (i : Nat) (s : State) :
    (∃ c, sendDispatch i s = .stop c s) ∨
    ((s.slotAt i).send = 1#8 ∧ ((s.slotAt i).inst.toNat < s.cfg.rdoCount ∧
        (s.rdoAt (s.slotAt i).inst.toNat).valid = true ∧ (s.slotAt i).size = 2#16) ∧
      sendDispatch i s = .done ((adv (s.slotAt i).inst.toNat s).setFb
        (Memory.writeBytes s.fb (s.slotAt i).index.toNat
          (rdoField (s.rdoAt (s.slotAt i).inst.toNat).advanced.offset)))) ∨
    ((s.slotAt i).send ≠ 1#8 ∧ isExternal s.cfg (s.slotAt i).send ∧
      ((∃ bs rest, s.clients = .sendRsp bs :: rest ∧ bs.length = (s.slotAt i).size.toNat ∧
          sendDispatch i s = .done (((s.issue (.sendReq ((s.slotAt i).send.toNat - 2) (s.slotAt i).inst
              (s.slotAt i).size.toNat)).setFb
            (Memory.writeBytes s.fb (s.slotAt i).index.toNat bs)).setClients rest)) ∨
        sendDispatch i s = .wait (.sendRsp i) (s.issue (.sendReq ((s.slotAt i).send.toNat - 2)
          (s.slotAt i).inst (s.slotAt i).size.toNat)))) := by
  unfold sendDispatch
  by_cases h1 : (s.slotAt i).send = portRdo
  · simp only [h1, if_true]
    rcases rdoSend_cases (s.slotAt i) s with ⟨c, h⟩ | ⟨ha, hb, hc, h⟩
    · exact .inl ⟨c, h⟩
    · exact .inr (.inl ⟨rfl, ⟨ha, hb, hc⟩, h⟩)
  · simp only [h1, if_false]
    by_cases h2 : isExternal s.cfg (s.slotAt i).send
    · rw [if_pos h2]
      refine .inr (.inr ⟨h1, h2, ?_⟩)
      rcases takeSendRsp_cases i (s.issue (.sendReq ((s.slotAt i).send.toNat - 2) (s.slotAt i).inst
        (s.slotAt i).size.toNat)) with ⟨bs, rest, hc, hl, h⟩ | h
      · exact .inl ⟨bs, rest, hc, hl, h⟩
      · exact .inr h
    · rw [if_neg h2]
      exact .inl ⟨_, rfl⟩

/-- Everything a receive dispatch can do: stop with nothing changed, store the slot's bytes in its engine,
take the client's acknowledgement, or wait with the request issued. -/
theorem recvDispatch_cases (i : Nat) (s : State) :
    (∃ c, recvDispatch i s = .stop c s) ∨
    ((s.slotAt i).recv = 1#8 ∧ ∃ hiB loB, ((s.slotAt i).inst.toNat < s.cfg.rdoCount ∧
        (s.rdoAt (s.slotAt i).inst.toNat).valid = true ∧ (s.slotAt i).size = 2#16) ∧
      Memory.read s.fb (s.slotAt i).index.toNat = some hiB ∧
      Memory.read s.fb ((s.slotAt i).index.toNat + 1) = some loB ∧
      recvDispatch i s = .done (s.setRdo (s.slotAt i).inst.toNat
        { s.rdoAt (s.slotAt i).inst.toNat with offset := hiB ++ loB })) ∨
    ((s.slotAt i).recv ≠ 1#8 ∧ isExternal s.cfg (s.slotAt i).recv ∧
      ∃ bs, Memory.readBytes s.fb (s.slotAt i).index.toNat (s.slotAt i).size.toNat = some bs ∧
        ((∃ rest, s.clients = .recvAck :: rest ∧
            recvDispatch i s = .done ((s.issue (.recvReq ((s.slotAt i).recv.toNat - 2) (s.slotAt i).inst
              bs)).setClients rest)) ∨
          recvDispatch i s = .wait (.recvAck i) (s.issue (.recvReq ((s.slotAt i).recv.toNat - 2)
            (s.slotAt i).inst bs)))) := by
  unfold recvDispatch
  by_cases h1 : (s.slotAt i).recv = portRdo
  · simp only [h1, if_true]
    rcases rdoRecv_cases (s.slotAt i) s with ⟨c, h⟩ | ⟨hiB, loB, ha, hb, hc, hh, hl, h⟩
    · exact .inl ⟨c, h⟩
    · exact .inr (.inl ⟨rfl, hiB, loB, ⟨ha, hb, hc⟩, hh, hl, h⟩)
  · simp only [h1, if_false]
    by_cases h2 : isExternal s.cfg (s.slotAt i).recv
    · rw [if_pos h2]
      split
      · exact .inl ⟨_, rfl⟩
      · rename_i bs hbs
        refine .inr (.inr ⟨h1, h2, bs, by assumption, ?_⟩)
        rcases takeRecvAck_cases i (s.issue (.recvReq ((s.slotAt i).recv.toNat - 2) (s.slotAt i).inst bs))
          with ⟨rest, hc, h⟩ | h
        · exact .inl ⟨rest, hc, h⟩
        · exact .inr h
    · rw [if_neg h2]
      exact .inl ⟨_, rfl⟩

/-- A send dispatch keeps everything but what dispatches write. -/
theorem sendDispatch_frame (i : Nat) (s : State) : DispatchFrame s (sendDispatch i s).state := by
  rcases sendDispatch_cases i s with ⟨c, h⟩ | ⟨_, _, h⟩ | ⟨_, _, ⟨_, _, _, _, h⟩ | h⟩ <;> rw [h] <;> rfl

/-- A receive dispatch keeps everything but what dispatches write. -/
theorem recvDispatch_frame (i : Nat) (s : State) : DispatchFrame s (recvDispatch i s).state := by
  rcases recvDispatch_cases i s with ⟨c, h⟩ | ⟨_, _, _, _, _, _, h⟩ | ⟨_, _, _, _, ⟨_, _, h⟩ | h⟩ <;>
    rw [h] <;> rfl

/-- A receive dispatch does not write the frame buffer (43_multiplexer.md rule R188). -/
theorem recvDispatch_fb (i : Nat) (s : State) : (recvDispatch i s).state.fb = s.fb := by
  rcases recvDispatch_cases i s with ⟨c, h⟩ | ⟨_, _, _, _, _, _, h⟩ | ⟨_, _, _, _, ⟨_, _, h⟩ | h⟩ <;>
    rw [h] <;> rfl

/-- A run of dispatches that each keep the frame keeps it. -/
theorem walkSlots_frame {dispatch : Nat → State → Walk}
    (hd : ∀ i s, DispatchFrame s (dispatch i s).state) (n i : Nat) (s : State) :
    DispatchFrame s (walkSlots dispatch n i s).state :=
  walkSlots_keeps (P := fun t => DispatchFrame s t) (fun i t ht => ht.trans (hd i t)) n i s
    (DispatchFrame.refl s)

/-- What the run of a command waits for is a slot of the run, in state that run has reached. -/
theorem walkSlots_wait {dispatch : Nat → State → Walk} {W : Nat → Wait}
    (hd : ∀ i s q t, dispatch i s = .wait q t → q = W i) (n i : Nat) (s : State) (q : Wait) (t : State)
    (h : walkSlots dispatch n i s = .wait q t) : ∃ k, i ≤ k ∧ k < i + n ∧ q = W k := by
  induction n generalizing i s with
  | zero => simp at h
  | succ n ih =>
    unfold walkSlots at h
    split at h
    · obtain ⟨k, h1, h2, h3⟩ := ih _ _ h
      exact ⟨k, by omega, by omega, h3⟩
    · exact ⟨i, Nat.le_refl i, by omega, hd i s q t h⟩

end Sys2Proof.Machine
end

