-- ==== Sys2Proof/Laws/Exec.lean ====
section
/-! SUPPORT. For each command, once, everything it can do: the fault it raises with nothing else changed, or
its effect with what had to hold for it. -/

namespace Sys2Proof.Machine

/-- Every command but MUX_SEND and MUX_RECV either raises a fault with nothing else changed or completes
(60_exceptions.md rule R214); `e` is the state its effect leaves. -/
def RaisesOr (r : Result) (s : State) (e : StatusOutcome → Bool → State → Prop) : Prop :=
  (∃ c, r = raise c s) ∨ ∃ o d u, e o d u ∧ r = complete o d u

theorem RaisesOr.raise {c : FaultCode} {s : State} {e : StatusOutcome → Bool → State → Prop} :
    RaisesOr (Machine.raise c s) s e := .inl ⟨c, rfl⟩

theorem RaisesOr.complete {o : StatusOutcome} {d : Bool} {s u : State}
    {e : StatusOutcome → Bool → State → Prop} (h : e o d u) : RaisesOr (Machine.complete o d u) s e :=
  .inr ⟨o, d, u, h, rfl⟩

/-- A next state of such a command is the fault's, or what its effect left with STATUS completed. -/
theorem RaisesOr.next {r : Result} {s t : State} {e : StatusOutcome → Bool → State → Prop}
    (h : RaisesOr r s e) (ht : r = .next t) :
    (∃ c, t = s.setStatus (s.status.commandFault c)) ∨
      ∃ o d u, e o d u ∧ t = u.setStatus (u.status.complete o d) := by
  rcases h with ⟨c, h⟩ | ⟨o, d, u, he, h⟩ <;> rw [h] at ht
  · exact .inl ⟨c, raise_next.1 ht⟩
  · exact .inr ⟨o, d, u, he, complete_next.1 ht⟩

theorem RaisesOr.withA {s : State} {k : Word → Result} {e : StatusOutcome → Bool → State → Prop}
    (h : ∀ a, s.opa = some a → RaisesOr (k a) s e) : RaisesOr (withA s k) s e := by
  rcases withA_cases s k with ⟨a, ha, hk⟩ | ⟨_, hk⟩ <;> rw [hk]
  · exact h a ha
  · exact .raise

theorem RaisesOr.withB {s : State} {k : Word → Result} {e : StatusOutcome → Bool → State → Prop}
    (h : ∀ b, s.opb = some b → RaisesOr (k b) s e) : RaisesOr (withB s k) s e := by
  rcases withB_cases s k with ⟨b, hb, hk⟩ | ⟨_, hk⟩ <;> rw [hk]
  · exact h b hb
  · exact .raise

theorem RaisesOr.needFormat {f : Fmt} {s : State} {k : Result} {e : StatusOutcome → Bool → State → Prop}
    (h : f.Legal → RaisesOr k s e) : RaisesOr (needFormat f s k) s e := by
  rcases needFormat_cases f s k with ⟨hf, hk⟩ | ⟨_, hk⟩ <;> rw [hk]
  · exact h hf
  · exact .raise

theorem RaisesOr.needMean {m : BitVec 8} {s : State} {k : Result} {e : StatusOutcome → Bool → State → Prop}
    (h : m.toNat < s.cfg.meanCount → RaisesOr k s e) : RaisesOr (needMean m s k) s e := by
  rcases needMean_cases m s k with ⟨hm, hk⟩ | ⟨_, hk⟩ <;> rw [hk]
  · exact h hm
  · exact .raise

theorem RaisesOr.needRdo {m : BitVec 8} {s : State} {k : Result} {e : StatusOutcome → Bool → State → Prop}
    (h : m.toNat < s.cfg.rdoCount → RaisesOr k s e) : RaisesOr (needRdo m s k) s e := by
  rcases needRdo_cases m s k with ⟨hm, hk⟩ | ⟨_, hk⟩ <;> rw [hk]
  · exact h hm
  · exact .raise

theorem RaisesOr.needMeanValid {m : BitVec 8} {s : State} {k : Result}
    {e : StatusOutcome → Bool → State → Prop} (h : (s.meanAt m.toNat).valid = true → RaisesOr k s e) :
    RaisesOr (needMeanValid m s k) s e := by
  rcases needMeanValid_cases m s k with ⟨hm, hk⟩ | ⟨_, hk⟩ <;> rw [hk]
  · exact h hm
  · exact .raise

theorem RaisesOr.needRdoValid {m : BitVec 8} {s : State} {k : Result}
    {e : StatusOutcome → Bool → State → Prop} (h : (s.rdoAt m.toNat).valid = true → RaisesOr k s e) :
    RaisesOr (needRdoValid m s k) s e := by
  rcases needRdoValid_cases m s k with ⟨hm, hk⟩ | ⟨_, hk⟩ <;> rw [hk]
  · exact h hm
  · exact .raise

/-- A command of the fixed-point unit faults or writes RES, and nothing else (40_fixed_point.md rule R100). -/
theorem execFxp_cases (i : Instr) (s : State)
    (hi : i = .fxpInit ∨ (∃ f, i = .fxpF2q f) ∨ (∃ f, i = .fxpQ2f f) ∨ (∃ f, i = .fxpI2q f) ∨
      (∃ f, i = .fxpQ2i f) ∨ i = .fxpAdd ∨ i = .fxpSub ∨ (∃ f, i = .fxpMul f) ∨ (∃ f, i = .fxpDiv f) ∨
      ∃ f, i = .fxpOne f) :
    RaisesOr (exec i s) s fun o _ u => o = .ok ∧ ∃ v, u = s.setRes v := by
  rcases hi with rfl | ⟨f, rfl⟩ | ⟨f, rfl⟩ | ⟨f, rfl⟩ | ⟨f, rfl⟩ | rfl | rfl | ⟨f, rfl⟩ | ⟨f, rfl⟩ | ⟨f, rfl⟩
  · exact .withA fun a _ => .withB fun b _ => .complete ⟨rfl, _, rfl⟩
  · refine .needFormat fun _ => .withA fun a _ => ?_
    split
    · exact .raise
    · exact .complete ⟨rfl, _, rfl⟩
  · exact .needFormat fun _ => .withA fun a _ => .complete ⟨rfl, _, rfl⟩
  · exact .needFormat fun _ => .withA fun a _ => .complete ⟨rfl, _, rfl⟩
  · exact .needFormat fun _ => .withA fun a _ => .complete ⟨rfl, _, rfl⟩
  · exact .withA fun a _ => .withB fun b _ => .complete ⟨rfl, _, rfl⟩
  · exact .withA fun a _ => .withB fun b _ => .complete ⟨rfl, _, rfl⟩
  · exact .needFormat fun _ => .withA fun a _ => .withB fun b _ => .complete ⟨rfl, _, rfl⟩
  · refine .needFormat fun _ => .withA fun a _ => .withB fun b _ => ?_
    split
    · exact .raise
    · exact .complete ⟨rfl, _, rfl⟩
  · exact .needFormat fun _ => .complete ⟨rfl, _, rfl⟩

theorem execMeanInit_cases (f : Fmt) (m : BitVec 8) (s : State) :
    RaisesOr (execMeanInit f m s) s fun o d u => o = .ok ∧ d = false ∧ f.Legal ∧
      m.toNat < s.cfg.meanCount ∧ ∃ a, s.opa = some a ∧ u = s.setMean m.toNat ⟨0#64, 0#32, a, f.fp, true⟩ :=
  .needFormat fun hf => .needMean fun hm => .withA fun a ha => .complete ⟨rfl, rfl, hf, hm, a, ha, rfl⟩

theorem execMeanAdd_cases (m : BitVec 8) (s : State) :
    RaisesOr (execMeanAdd m s) s fun o d u => o = .ok ∧ d = false ∧ m.toNat < s.cfg.meanCount ∧
      (s.meanAt m.toNat).valid = true ∧ ∃ v, s.opa = some v ∧
        u = ((s.setMean m.toNat (meanAdd (s.meanAt m.toNat) v)).setRes
          ((meanAdd (s.meanAt m.toNat) v).sum.extractLsb' 0 32)).setResh
          ((meanAdd (s.meanAt m.toNat) v).sum.extractLsb' 32 32) :=
  .needMean fun hm => .needMeanValid fun hv => .withA fun v ha => .complete ⟨rfl, rfl, hm, hv, v, ha, rfl⟩

theorem execMeanReset_cases (m : BitVec 8) (s : State) :
    RaisesOr (execMeanReset m s) s fun o d u => o = .ok ∧ d = false ∧ m.toNat < s.cfg.meanCount ∧
      (s.meanAt m.toNat).valid = true ∧
        u = s.setMean m.toNat { s.meanAt m.toNat with sum := 0#64, index := 0#32 } :=
  .needMean fun hm => .needMeanValid fun hv => .complete ⟨rfl, rfl, hm, hv, rfl⟩

theorem execMeanCalc_cases (m : BitVec 8) (s : State) :
    RaisesOr (execMeanCalc m s) s fun o d u => o = .ok ∧ d = false ∧ m.toNat < s.cfg.meanCount ∧
      (s.meanAt m.toNat).valid = true ∧ ∃ ov, s.opa = some ov ∧ meanDivisor (s.meanAt m.toNat) ov ≠ 0 ∧
        u = s.setRes (u32 (meanValue (s.meanAt m.toNat) (meanDivisor (s.meanAt m.toNat) ov))) := by
  refine .needMean fun hm => .needMeanValid fun hv => .withA fun ov ha => ?_
  by_cases h : meanDivisor (s.meanAt m.toNat) ov = 0
  · simp only [h, if_true]
    exact .raise
  · simp only [h, if_false]
    exact .complete ⟨rfl, rfl, hm, hv, ov, ha, h, rfl⟩

theorem execRdoInit_cases (e : BitVec 8) (s : State) :
    RaisesOr (execRdoInit e s) s fun o d u => o = .ok ∧ d = false ∧ e.toNat < s.cfg.rdoCount ∧
      ∃ r : Half, r ≠ 0#16 ∧ u = s.setRdo e.toNat ⟨0#16, r, true, true⟩ := by
  refine .needRdo fun he => .withA fun a _ => ?_
  split
  · exact .raise
  · refine .complete ⟨rfl, rfl, he, _, ?_, rfl⟩
    split
    · assumption
    · decide

theorem execRdoAdvance_cases (e : BitVec 8) (s : State) :
    RaisesOr (execRdoAdvance e s) s fun o d u => o = .ok ∧ d = false ∧ e.toNat < s.cfg.rdoCount ∧
      (s.rdoAt e.toNat).valid = true ∧ u = adv e.toNat s :=
  .needRdo fun he => .needRdoValid fun hv => .complete ⟨rfl, rfl, he, hv, rfl⟩

theorem execRdoGet_cases (e : BitVec 8) (s : State) :
    RaisesOr (execRdoGet e s) s fun o d u => o = .ok ∧ d = false ∧ e.toNat < s.cfg.rdoCount ∧
      (s.rdoAt e.toNat).valid = true ∧ u = s.setRes
        (if (s.rdoAt e.toNat).enabled then (s.rdoAt e.toNat).offset.setWidth 32 else 0#32) :=
  .needRdo fun he => .needRdoValid fun hv => .complete ⟨rfl, rfl, he, hv, rfl⟩

theorem execRdoEnable_cases (e : BitVec 8) (s : State) :
    RaisesOr (execRdoEnable e s) s fun o d u => o = .ok ∧ d = false ∧ e.toNat < s.cfg.rdoCount ∧
      (s.rdoAt e.toNat).valid = true ∧ ∃ b, u = s.setRdo e.toNat { s.rdoAt e.toNat with enabled := b } := by
  refine .needRdo fun he => .needRdoValid fun hv => .withA fun a _ => ?_
  split
  · exact .raise
  · exact .complete ⟨rfl, rfl, he, hv, _, rfl⟩

theorem execMuxInit_cases (s : State) :
    RaisesOr (execMuxInit s) s fun o d u => o = .ok ∧ d = false ∧ s.muxState = .unconfigured ∧
      ∃ a, s.opa = some a ∧ a.toNat ≤ s.cfg.fbBytes ∧ u = s.createTable (a.setWidth 16) := by
  unfold execMuxInit
  split
  · exact .raise
  · refine .withA fun a ha => ?_
    split
    · exact .raise
    · exact .complete ⟨rfl, rfl, by simp_all, a, ha, by omega, rfl⟩

theorem execMuxAdd_cases (s : State) :
    RaisesOr (execMuxAdd s) s fun o d u => d = false ∧ s.muxState ≠ .unconfigured ∧
      ∃ a b, s.opa = some a ∧ s.opb = some b ∧
        ((o ≠ .ok ∧ u = s) ∨
          (o = .ok ∧ s.muxCount.toNat ≠ s.cfg.muxMaxSlots ∧
            s.muxOffset.toNat + (opbSize b).toNat ≤ s.muxMaxbuf.toNat ∧
            u = s.appendSlot ⟨a, opbSize b, s.muxOffset, opbSend b, opbRecv b⟩)) := by
  unfold execMuxAdd
  rcases needTable_cases s _ with ⟨h, hk⟩ | ⟨_, hk⟩ <;> rw [hk]
  · refine .withA fun a ha => .withB fun b hb => ?_
    split
    · exact .complete ⟨rfl, h, a, b, ha, hb, .inl ⟨by decide, rfl⟩⟩
    · split
      · exact .complete ⟨rfl, h, a, b, ha, hb, .inl ⟨by decide, rfl⟩⟩
      · exact .complete ⟨rfl, h, a, b, ha, hb, .inr ⟨rfl, by assumption, by omega, rfl⟩⟩
  · exact .raise

/-- MUX_SEND faults with nothing changed, or ends the run of its dispatches. -/
theorem execMuxSend_cases (s : State) :
    execMuxSend s = raise .notInitialised s ∨ (s.muxState ≠ .unconfigured ∧
      execMuxSend s = endSend (walkSlots sendDispatch s.muxCount.toNat 0 s)) := by
  unfold execMuxSend
  rcases needTable_cases s _ with ⟨h, hk⟩ | ⟨_, hk⟩ <;> rw [hk]
  · exact .inr ⟨h, rfl⟩
  · exact .inl rfl

/-- MUX_RECV faults with nothing changed, or ends the run of its dispatches. -/
theorem execMuxRecv_cases (s : State) :
    (∃ c, execMuxRecv s = raise c s) ∨ (s.muxState ≠ .unconfigured ∧
      ∃ len, s.opa = some len ∧ s.muxOffset.toNat ≤ len.toNat ∧
        execMuxRecv s = endRecv (walkSlots recvDispatch s.muxCount.toNat 0 s)) := by
  unfold execMuxRecv
  rcases needTable_cases s _ with ⟨h, hk⟩ | ⟨_, hk⟩ <;> rw [hk]
  · rcases withA_cases s (fun len => if len.toNat < s.muxOffset.toNat then raise .shortFrame s
        else endRecv (walkSlots recvDispatch s.muxCount.toNat 0 s)) with ⟨a, ha, hk2⟩ | ⟨_, hk2⟩ <;> rw [hk2]
    · split
      · exact .inl ⟨_, rfl⟩
      · exact .inr ⟨h, a, ha, by omega, rfl⟩
    · exact .inl ⟨_, rfl⟩
  · exact .inl ⟨_, rfl⟩

/-- The end of a MUX_SEND: completed with the total in RES, faulted, or waiting. -/
theorem endSend_cases (w : Walk) :
    (∃ t, w = .done t ∧ endSend w = complete .ok false ((t.setBusy none).setRes (t.muxOffset.setWidth 32))) ∨
    (∃ c t, w = .stop c t ∧ endSend w = raise c (t.setBusy none)) ∨
    (∃ q t, w = .wait q t ∧ endSend w = .next (t.setBusy (some q))) := by
  cases w with
  | done t => exact .inl ⟨t, rfl, rfl⟩
  | stop c t => exact .inr (.inl ⟨c, t, rfl, rfl⟩)
  | wait q t => exact .inr (.inr ⟨q, t, rfl, rfl⟩)

/-- The end of a MUX_RECV: completed, faulted, or waiting. -/
theorem endRecv_cases (w : Walk) :
    (∃ t, w = .done t ∧ endRecv w = complete .ok false (t.setBusy none)) ∨
    (∃ c t, w = .stop c t ∧ endRecv w = raise c (t.setBusy none)) ∨
    (∃ q t, w = .wait q t ∧ endRecv w = .next (t.setBusy (some q))) := by
  cases w with
  | done t => exact .inl ⟨t, rfl, rfl⟩
  | stop c t => exact .inr (.inl ⟨c, t, rfl, rfl⟩)
  | wait q t => exact .inr (.inr ⟨q, t, rfl, rfl⟩)

/-- However a MUX_SEND ends, it keeps all but what dispatches write, the wait, STATUS and RES. -/
theorem endSend_frame {s t : State} {w : Walk} (hw : DispatchFrame s w.state) (h : endSend w = .next t) :
    t = { s with fb := t.fb, rdo := t.rdo, clients := t.clients, requests := t.requests, busy := t.busy,
                 status := t.status, res := t.res } := by
  rcases endSend_cases w with ⟨u, rfl, h2⟩ | ⟨c, u, rfl, h2⟩ | ⟨q, u, rfl, h2⟩ <;> rw [h2] at h
  · rw [complete_next.1 h]; simp only [Walk.state_done] at hw; rw [hw]; rfl
  · rw [raise_next.1 h]; simp only [Walk.state_stop] at hw; rw [hw]; rfl
  · simp only [Walk.state_wait] at hw; simp at h; rw [← h, hw]; rfl

/-- However a MUX_RECV ends, it keeps all but the engines, the clients' lists, the wait and STATUS; FB is as
its run left it. -/
theorem endRecv_frame {s t : State} {w : Walk} (hw : DispatchFrame s w.state) (h : endRecv w = .next t) :
    t = { s with fb := w.state.fb, rdo := t.rdo, clients := t.clients, requests := t.requests,
                 busy := t.busy, status := t.status } := by
  rcases endRecv_cases w with ⟨u, rfl, h2⟩ | ⟨c, u, rfl, h2⟩ | ⟨q, u, rfl, h2⟩ <;> rw [h2] at h
  · rw [complete_next.1 h]; simp only [Walk.state_done] at *; rw [hw]; rfl
  · rw [raise_next.1 h]; simp only [Walk.state_stop] at *; rw [hw]; rfl
  · simp only [Walk.state_wait] at *; simp at h; rw [← h, hw]; rfl

/-- A run of receive dispatches does not write the frame buffer. -/
theorem walkSlots_recv_fb (n i : Nat) (s : State) : (walkSlots recvDispatch n i s).state.fb = s.fb :=
  walkSlots_keeps (P := fun t => t.fb = s.fb) (fun i t ht => (recvDispatch_fb i t).trans ht) n i s rfl

end Sys2Proof.Machine
end

