-- ==== Sys2Proof/Laws/PerInstr.lean ====
section
/-! SUPPORT. Facts about every command as syntax, made per constructor: its word spells its own row of the
opcode table (30_encoding.md rule R86). -/

namespace Sys2Proof.Laws.RowMatch

/-- The encoded word of a command agrees with its row: `word & mask = match`. -/
def Statement (i : Instr) : Prop := i.spelledBy (encode i)

/-- The mask of a row with a format drops FP and FI. -/
theorem mask_format (opc : BitVec 6) (f : Fmt) :
    packFields opc f 0#8 &&& 0xFC00FFFF#32 = opc ++ 0#26 := by
  apply BitVec.eq_of_getLsbD_eq
  intro i hi
  simp only [packFields, BitVec.getLsbD_and, BitVec.getLsbD_append]
  interval_cases i <;> simp

/-- The mask of a row with a SEL drops SEL. -/
theorem mask_sel (opc : BitVec 6) (m : BitVec 8) :
    packFields opc ⟨0#5, 0#5⟩ m &&& 0xFFFF00FF#32 = opc ++ 0#26 := by
  apply BitVec.eq_of_getLsbD_eq
  intro i hi
  simp only [packFields, BitVec.getLsbD_and, BitVec.getLsbD_append]
  interval_cases i <;> simp

/-- The mask of a row with both drops both. -/
theorem mask_format_sel (opc : BitVec 6) (f : Fmt) (m : BitVec 8) :
    packFields opc f m &&& 0xFC0000FF#32 = opc ++ 0#26 := by
  apply BitVec.eq_of_getLsbD_eq
  intro i hi
  simp only [packFields, BitVec.getLsbD_and, BitVec.getLsbD_append]
  interval_cases i <;> simp

theorem fxpInit : Statement .fxpInit := rfl

theorem fxpF2q (f : Fmt) : Statement (.fxpF2q f) := mask_format 0x02#6 f

theorem fxpQ2f (f : Fmt) : Statement (.fxpQ2f f) := mask_format 0x03#6 f

theorem fxpI2q (f : Fmt) : Statement (.fxpI2q f) := mask_format 0x04#6 f

theorem fxpQ2i (f : Fmt) : Statement (.fxpQ2i f) := mask_format 0x05#6 f

theorem fxpAdd : Statement .fxpAdd := rfl

theorem fxpSub : Statement .fxpSub := rfl

theorem fxpMul (f : Fmt) : Statement (.fxpMul f) := mask_format 0x08#6 f

theorem fxpDiv (f : Fmt) : Statement (.fxpDiv f) := mask_format 0x09#6 f

theorem fxpOne (f : Fmt) : Statement (.fxpOne f) := mask_format 0x0A#6 f

theorem meanInit (f : Fmt) (m : BitVec 8) : Statement (.meanInit f m) := mask_format_sel 0x10#6 f m

theorem meanAdd (m : BitVec 8) : Statement (.meanAdd m) := mask_sel 0x11#6 m

theorem meanReset (m : BitVec 8) : Statement (.meanReset m) := mask_sel 0x12#6 m

theorem meanCalc (m : BitVec 8) : Statement (.meanCalc m) := mask_sel 0x13#6 m

theorem muxInit : Statement .muxInit := rfl

theorem muxAdd : Statement .muxAdd := rfl

theorem muxSend : Statement .muxSend := rfl

theorem muxRecv : Statement .muxRecv := rfl

theorem rdoInit (m : BitVec 8) : Statement (.rdoInit m) := mask_sel 0x28#6 m

theorem rdoAdvance (m : BitVec 8) : Statement (.rdoAdvance m) := mask_sel 0x29#6 m

theorem rdoGet (m : BitVec 8) : Statement (.rdoGet m) := mask_sel 0x2A#6 m

theorem rdoEnable (m : BitVec 8) : Statement (.rdoEnable m) := mask_sel 0x2B#6 m

end Sys2Proof.Laws.RowMatch
end

