-- ==== Sys2Proof/Laws/Step.lean ====
section
/-! SUPPORT. What one step can do, said once: every way it ends, and what it can do to the slot table. -/

namespace Sys2Proof.Machine

/-- Every way a step ends in a next state: a platform reset; the continuation of a waiting command; nothing to
do; or, on the next host access, a read's data, a bus fault, an operand or a frame byte written, a write to
CMD ignored, turned down, or run. -/
theorem step_next {s t : State} (h : step s = .next t) :
    (∃ rest, s.bus = .reset :: rest ∧ t = (s.takeEvent rest).platformReset) ∨
    ((∀ rest, s.bus ≠ .reset :: rest) ∧
    ((∃ w, s.busy = some w ∧ resume w s = .next t) ∨
    (s.busy = none ∧ ((s.bus = [] ∧ t = s) ∨ ∃ ev rest, s.bus = ev :: rest ∧
      ((t = s.takeEvent rest) ∨
       (∃ v, t = (s.takeEvent rest).setReply v) ∨
       (∃ c v, t = ((s.takeEvent rest).busFault c).setReply v) ∨ (∃ c, t = (s.takeEvent rest).busFault c) ∨
       (∃ v, t = (s.takeEvent rest).setOpa v) ∨ (∃ v, t = (s.takeEvent rest).setOpb v) ∨
       (∃ a b, a < s.cfg.fbBytes ∧ t = (s.takeEvent rest).setFb (Memory.write s.fb a b)) ∨
       (s.status.fault = false ∧ (∃ c, t = (s.takeEvent rest).setStatus (s.status.commandFault c))) ∨
       (s.status.fault = false ∧ ∃ i, exec i (s.takeEvent rest) = .next t)))))) := by
  rcases step_cases s
    with ⟨rest, hb, h2⟩ | ⟨w, hb, hn, h2⟩ | ⟨ev, rest, hb, hbus, hne, h2⟩ | ⟨hb, hbus, h2⟩ <;> rw [h2] at h
  · exact .inl ⟨rest, hb, by simpa using h.symm⟩
  · exact .inr ⟨hn, .inl ⟨w, hb, h⟩⟩
  · refine .inr ⟨fun r hr => hne (by rw [hbus] at hr; simp at hr; exact hr.1), .inr ⟨hb,
    .inr ⟨ev, rest, hbus, ?_⟩⟩⟩
    unfold takeStep at h
    split at h
    · simp at hne
    · split at h
      · rcases hostRead_cases (_ : Nat) _ (s.takeEvent rest) with ⟨v, h3⟩ | ⟨c, _, h3⟩ <;> rw [h3] at h
        · exact .inr (.inl ⟨v, by simpa using h.symm⟩)
        · exact .inr (.inr (.inl ⟨c, _, by simpa using h.symm⟩))
      · simp at h
    · split at h
      · rename_i data hw
        rcases hostWrite_cases (_ : Nat) _ data (s.takeEvent rest)
          with h3 | h3 | h3 | ⟨a, ha, h3⟩ | h3 <;> rw [h3] at h
        · rcases writeCmd_cases data (s.takeEvent rest)
          with ⟨hf, h4⟩ | ⟨hf, _, h4⟩ | ⟨hf, i, _, h4⟩ <;> rw [h4] at h
          · exact .inl (by simpa using h.symm)
          · exact .inr (.inr (.inr (.inr (.inr (.inr (.inr (.inl ⟨hf, _, raise_next.1 h⟩)))))))
          · exact .inr (.inr (.inr (.inr (.inr (.inr (.inr (.inr ⟨hf, i, h⟩)))))))
        · exact .inr (.inr (.inr (.inr (.inl ⟨_, by simpa using h.symm⟩))))
        · exact .inr (.inr (.inr (.inr (.inr (.inl ⟨_, by simpa using h.symm⟩)))))
        · exact .inr (.inr (.inr (.inr (.inr (.inr (.inl ⟨a, _, ha, by simpa using h.symm⟩))))))
        · exact .inr (.inr (.inr (.inl ⟨_, by simpa using h.symm⟩)))
      · simp at h
  · refine .inr ⟨fun r hr => by rw [hbus] at hr; simp at hr, .inr ⟨hb, .inl ⟨hbus, by simpa using h.symm⟩⟩⟩

/-- A waiting command goes on as a run of dispatches. -/
theorem resume_walk (w : Wait) (s : State) :
    (∃ x : Walk, resume w s = endSend x ∧ DispatchFrame s x.state) ∨
    (∃ x : Walk, resume w s = endRecv x ∧ DispatchFrame s x.state ∧ x.state.fb = s.fb) := by
  cases w with
  | sendRsp i =>
    left; refine ⟨_, rfl, ?_⟩
    rcases takeSendRsp_cases i s with ⟨bs, rest, _, _, h⟩ | h <;> rw [h]
    · exact DispatchFrame.trans (by rfl) (walkSlots_frame sendDispatch_frame _ _ _)
    · rfl
  | recvAck i =>
    right; refine ⟨_, rfl, ?_⟩
    rcases takeRecvAck_cases i s with ⟨rest, _, h⟩ | h <;> rw [h]
    · exact ⟨DispatchFrame.trans (by rfl) (walkSlots_frame recvDispatch_frame _ _ _), walkSlots_recv_fb _ _ _⟩
    · exact ⟨rfl, rfl⟩

/-- `t` has the configuration and the slot table of `s`. -/
def TableEq (s t : State) : Prop :=
  t.cfg = s.cfg ∧ t.muxState = s.muxState ∧ t.muxCount = s.muxCount ∧ t.muxOffset = s.muxOffset ∧
    t.muxMaxbuf = s.muxMaxbuf ∧ t.slots = s.slots

/-- What a step can do to the slot table: a platform reset, nothing, a MUX_INIT, or a MUX_ADD that fits. -/
theorem step_table {s t : State} (h : step s = .next t) :
    (∃ rest, s.bus = .reset :: rest ∧ t = (s.takeEvent rest).platformReset) ∨
    ((∀ rest, s.bus ≠ .reset :: rest) ∧ (TableEq s t ∨
      (∃ a : Word, a.toNat ≤ s.cfg.fbBytes ∧ s.muxState = .unconfigured ∧
        TableEq (s.createTable (a.setWidth 16)) t) ∨
      (∃ (a b : Word), s.muxState ≠ .unconfigured ∧ s.muxCount.toNat ≠ s.cfg.muxMaxSlots ∧
        s.muxOffset.toNat + (opbSize b).toNat ≤ s.muxMaxbuf.toNat ∧
        TableEq (s.appendSlot ⟨a, opbSize b, s.muxOffset, opbSend b, opbRecv b⟩) t))) := by
  rcases step_next h with h | ⟨hn, h⟩
  · exact .inl h
  refine .inr ⟨hn, ?_⟩
  rcases h with ⟨w, hb, h⟩ | ⟨hb, ⟨_, rfl⟩ | ⟨ev, rest, hbus, h⟩⟩
  · left
    rcases resume_walk w s with ⟨x, hx, hf⟩ | ⟨x, hx, hf, _⟩ <;> rw [hx] at h
    · rw [endSend_frame hf h]; simp [TableEq]
    · rw [endRecv_frame hf h]; simp [TableEq]
  · exact .inl (by simp [TableEq])
  rcases h with rfl | ⟨v, rfl⟩ | ⟨c, v, rfl⟩ | ⟨c, rfl⟩ | ⟨v, rfl⟩ | ⟨v, rfl⟩ | ⟨a, b, _, rfl⟩ | ⟨_, c, rfl⟩ | ⟨_, i, h⟩
  iterate 8 exact .inl (by simp [TableEq, State.busFault])
  cases i with
  | muxSend =>
    left
    rcases execMuxSend_cases (s.takeEvent rest) with h2 | ⟨_, h2⟩
    · have := raise_next.1 (h2.symm.trans h); subst this; simp [TableEq]
    · have := endSend_frame (walkSlots_frame sendDispatch_frame _ _ _) (h2.symm.trans h)
      rw [this]; simp [TableEq]
  | muxRecv =>
    left
    rcases execMuxRecv_cases (s.takeEvent rest) with ⟨c, h2⟩ | ⟨_, l, _, _, h2⟩
    · have := raise_next.1 (h2.symm.trans h); subst this; simp [TableEq]
    · have := endRecv_frame (walkSlots_frame recvDispatch_frame _ _ _) (h2.symm.trans h)
      rw [this]; simp [TableEq]
  | meanInit f m =>
    left
    rcases RaisesOr.next (execMeanInit_cases f m _) h
      with ⟨c, rfl⟩ | ⟨o, d, u, ⟨rfl, rfl, _, _, a, _, rfl⟩, rfl⟩ <;> simp [TableEq]
  | meanAdd m =>
    left
    rcases RaisesOr.next (execMeanAdd_cases m _) h
      with ⟨c, rfl⟩ | ⟨o, d, u, ⟨rfl, rfl, _, _, a, _, rfl⟩, rfl⟩ <;> simp [TableEq]
  | meanReset m =>
    left
    rcases RaisesOr.next (execMeanReset_cases m _) h
      with ⟨c, rfl⟩ | ⟨o, d, u, ⟨rfl, rfl, _, _, rfl⟩, rfl⟩ <;> simp [TableEq]
  | meanCalc m =>
    left
    rcases RaisesOr.next (execMeanCalc_cases m _) h
      with ⟨c, rfl⟩ | ⟨o, d, u, ⟨rfl, rfl, _, _, a, _, _, rfl⟩, rfl⟩ <;> simp [TableEq]
  | rdoInit m =>
    left
    rcases RaisesOr.next (execRdoInit_cases m _) h
      with ⟨c, rfl⟩ | ⟨o, d, u, ⟨rfl, rfl, _, a, _, rfl⟩, rfl⟩ <;> simp [TableEq]
  | rdoAdvance m =>
    left
    rcases RaisesOr.next (execRdoAdvance_cases m _) h
      with ⟨c, rfl⟩ | ⟨o, d, u, ⟨rfl, rfl, _, _, rfl⟩, rfl⟩ <;> simp [adv, TableEq]
  | rdoGet m =>
    left
    rcases RaisesOr.next (execRdoGet_cases m _) h
      with ⟨c, rfl⟩ | ⟨o, d, u, ⟨rfl, rfl, _, _, rfl⟩, rfl⟩ <;> simp [TableEq]
  | rdoEnable m =>
    left
    rcases RaisesOr.next (execRdoEnable_cases m _) h
      with ⟨c, rfl⟩ | ⟨o, d, u, ⟨rfl, rfl, _, _, a, rfl⟩, rfl⟩ <;> simp [TableEq]
  | muxInit =>
    rcases RaisesOr.next (execMuxInit_cases _) h with ⟨c, rfl⟩ | ⟨o, d, u, ⟨rfl, rfl, hm, a, _, ha, rfl⟩, rfl⟩
    · left; simp [TableEq]
    · exact .inr (.inl ⟨a, ha, hm, by simp [TableEq]⟩)
  | muxAdd =>
    rcases RaisesOr.next (execMuxAdd_cases _) h
      with ⟨c, rfl⟩ | ⟨o, d, u, ⟨rfl, hm, a, b, _, _, ⟨_, rfl⟩ | ⟨_, h1, h2, rfl⟩⟩, rfl⟩
    · left; simp [TableEq]
    · left; simp [TableEq]
    · exact .inr (.inr ⟨a, b, hm, h1, h2, by simp [TableEq]⟩)
  | fxpInit | fxpF2q | fxpQ2f | fxpI2q | fxpQ2i | fxpAdd | fxpSub | fxpMul | fxpDiv | fxpOne =>
    left
    rcases RaisesOr.next (execFxp_cases _ _ (by first | exact .inl rfl | simp)) h
      with ⟨c, rfl⟩ | ⟨o, d, u, ⟨rfl, v, rfl⟩, rfl⟩ <;> simp [TableEq]

end Sys2Proof.Machine
end

