-- ==== Sys2Proof/Tests/Slice0.lean ====
section
/-! SUPPORT. The model's own tests. Expected values come from 95_test_vectors.md (the row is named beside
each), from 30_encoding.md rule R90, or by hand from the rule named. Then, for every obligation with
hypotheses, a witness: a concrete state and operands that meet all of them together. -/

namespace Sys2Proof.Tests

open Sys2Proof Sys2Proof.Machine

/-! ### Helpers -/

/-- Format Q15.16. -/
abbrev q16 : Fmt := ⟨16#5, 15#5⟩

/-- The reset state with OPA and OPB written. -/
def ops (a b : Word) : State := { State.reset with opa := some a, opb := some b }

/-- The reset state with MEAN[0] and OPA written. -/
def meanState (m : Mean) (a : Word) : State := { State.reset with mean := [m, Mean.zero], opa := some a }

/-- The reset state with RDO[0] and OPA written. -/
def rdoState (r : Rdo) (a : Word) : State := { State.reset with rdo := [r], opa := some a }

/-- An empty table with MUX_MAXBUF = 8, and the operands of a MUX_ADD. -/
def tableState (a b : Word) : State :=
  { State.reset with muxState := .configured, muxMaxbuf := 8#16, opa := some a, opb := some b }

/-- The table of Program 3 (95_test_vectors.md section 3): an RDO slot and two external ones. -/
def prog3 : State :=
  { State.reset with
    slots := [⟨0#32, 2#16, 0#16, 1#8, 1#8⟩, ⟨0x11#32, 3#16, 2#16, 2#8, 2#8⟩,
              ⟨0x22#32, 1#16, 5#16, 3#8, 3#8⟩, Slot.zero]
    muxState := .built
    muxCount := 3#6
    muxOffset := 6#16
    muxMaxbuf := 8#16
    rdo := [⟨0#16, 5#16, true, true⟩]
    opa := some 6#32 }

/-- What the two external clients of Program 3 send. -/
def sent : List (List Byte) := [[0xAA#8, 0xBB#8, 0xCC#8], [0x7E#8]]

/-- Program 3's table with the clients' answers to a MUX_SEND there. -/
def prog3Send : State := { prog3 with clients := sent.map .sendRsp ++ [.recvAck, .recvAck] }

/-- Program 3's frame, received, with the clients' acknowledgements there. -/
def prog3Recv : State :=
  { prog3 with
    fb := [(0, 0x00#8), (1, 0x01#8), (2, 0xAA#8), (3, 0xBB#8), (4, 0xCC#8), (5, 0x7E#8)]
    clients := [.recvAck, .recvAck] }

/-- The next state, if there is one. -/
def after (r : Result) : Option State :=
  match r with
  | .next t => some t
  | .fault _ => none
  | .refused _ => none

/-- RES and the STATUS word after a command. -/
def resStatus (r : Result) : Option (Option Word × Word) := (after r).map fun t => (t.res, t.status.word)

/-- The STATUS word after a command. -/
def statusWord (r : Result) : Option Word := (after r).map fun t => t.status.word

/-- A state with one bus event to take. -/
def withEvent (s : State) (ev : Event) : State := { s with bus := [ev] }

/-! ### Decoding: every command's word, written out from 30_encoding.md rules R80, R86, R90 -/

theorem test_decode_fxpInit : decode 0x04000000#32 = .ok .fxpInit := by decide
theorem test_decode_fxpF2q : decode 0x0A0F0000#32 = .ok (.fxpF2q q16) := by decide
theorem test_decode_fxpQ2f : decode 0x0FE00000#32 = .ok (.fxpQ2f ⟨31#5, 0#5⟩) := by decide
theorem test_decode_fxpI2q : decode 0x101F0000#32 = .ok (.fxpI2q ⟨0#5, 31#5⟩) := by decide
theorem test_decode_fxpQ2i : decode 0x160F0000#32 = .ok (.fxpQ2i q16) := by decide
theorem test_decode_fxpAdd : decode 0x18000000#32 = .ok .fxpAdd := by decide
theorem test_decode_fxpSub : decode 0x1C000000#32 = .ok .fxpSub := by decide
theorem test_decode_fxpMul : decode 0b00100010000011110000000000000000#32 = .ok (.fxpMul q16) := by decide
theorem test_decode_fxpDiv : decode 0x260F0000#32 = .ok (.fxpDiv q16) := by decide
theorem test_decode_fxpOne : decode 0x283E0000#32 = .ok (.fxpOne ⟨1#5, 30#5⟩) := by decide
theorem test_decode_meanInit : decode 0b01000010000011110000000100000000#32 = .ok (.meanInit q16 1#8) := by decide
theorem test_decode_meanAdd : decode 0x44000200#32 = .ok (.meanAdd 2#8) := by decide
theorem test_decode_meanReset : decode 0x48000000#32 = .ok (.meanReset 0#8) := by decide
theorem test_decode_meanCalc : decode 0x4C00FF00#32 = .ok (.meanCalc 0xFF#8) := by decide
theorem test_decode_muxInit : decode 0x80000000#32 = .ok .muxInit := by decide
theorem test_decode_muxAdd : decode 0x84000000#32 = .ok .muxAdd := by decide
theorem test_decode_muxSend : decode 0b10001000000000000000000000000000#32 = .ok .muxSend := by decide
theorem test_decode_muxRecv : decode 0x8C000000#32 = .ok .muxRecv := by decide
theorem test_decode_rdoInit : decode 0xA0000100#32 = .ok (.rdoInit 1#8) := by decide
theorem test_decode_rdoAdvance : decode 0xA4000000#32 = .ok (.rdoAdvance 0#8) := by decide
theorem test_decode_rdoGet : decode 0b10101000000000000000000000000000#32 = .ok (.rdoGet 0#8) := by decide
theorem test_decode_rdoEnable : decode 0xAC000000#32 = .ok (.rdoEnable 0#8) := by decide

/-- DV1 and DV5: no row has the opcode. -/
theorem test_decode_reservedOpcode :
    decode 0x00000000#32 = .error .reservedOpcode ∧ decode 0x2C000000#32 = .error .reservedOpcode := by decide
/-- DV2 and DV8: RSV is checked before the format. -/
theorem test_decode_reservedField :
    decode 0x18000001#32 = .error .reservedField ∧ decode 0x22100001#32 = .error .reservedField := by decide
/-- DV3. -/
theorem test_decode_formatNotTaken : decode 0x180F0000#32 = .error .formatNotTaken := by decide
/-- DV4. -/
theorem test_decode_selNotTaken : decode 0x04000100#32 = .error .selNotTaken := by decide
/-- The host's bit numbering: the table's 32 bits are the word. -/
theorem test_decodeTableWord : decodeTableWord 32 0x220F0000 = some (.fxpMul q16) := by decide

/-! ### Well-formedness: one ill-formed term for each check -/

theorem test_wf_format : ¬ (Instr.fxpMul ⟨16#5, 16#5⟩).WellFormed Config.example ∧
    (Instr.fxpMul q16).WellFormed Config.example := by decide
theorem test_wf_meanInit_format : ¬ (Instr.meanInit ⟨31#5, 1#5⟩ 0#8).WellFormed Config.example := by decide
theorem test_wf_mean_select : ¬ (Instr.meanAdd 2#8).WellFormed Config.example ∧
    (Instr.meanAdd 1#8).WellFormed Config.example := by decide
theorem test_wf_rdo_select : ¬ (Instr.rdoGet 1#8).WellFormed Config.example ∧
    (Instr.rdoGet 0#8).WellFormed Config.example := by decide

/-! ### Fixed point (95_test_vectors.md sections 2.1 to 2.10) -/

theorem test_fxpInit_one_sided :
    resStatus (exec .fxpInit (ops 20#32 0#32)) = some (some 0x028B0000#32, 0#32) := by decide
theorem test_fxpInit_fallback :
    resStatus (exec .fxpInit (ops 16#32 16#32)) = some (some 0x020F0000#32, 0x100#32) := by decide
theorem test_fxpF2q_clamps_before_scaling :
    resStatus (exec (.fxpF2q q16) (ops 0x46FFFF80#32 0#32)) = some (some 0x7FFF0000#32, 0#32) := by decide
theorem test_fxpF2q_nan :
    resStatus (exec (.fxpF2q q16) (ops 0x7FC00000#32 0#32)) = some (none, 0x80130013#32) := by decide
theorem test_fxpQ2f_negative :
    resStatus (exec (.fxpQ2f q16) (ops 0xFFFE8000#32 0#32)) = some (some 0xBFC00000#32, 0#32) := by decide
theorem test_fxpQ2f_tie_to_even :
    resStatus (exec (.fxpQ2f ⟨0#5, 31#5⟩) (ops 0x01000001#32 0#32)) = some (some 0x4B800000#32, 0#32) := by decide
theorem test_fxpI2q_saturates :
    resStatus (exec (.fxpI2q q16) (ops 0xFFFF7FFF#32 0#32)) = some (some 0x80000000#32, 0#32) := by decide
theorem test_fxpQ2i_floor :
    resStatus (exec (.fxpQ2i q16) (ops 0xFFFE8000#32 0#32)) = some (some 0xFFFFFFFE#32, 0#32) := by decide
theorem test_fxpAdd_saturates :
    resStatus (exec .fxpAdd (ops 0x7FFFFFFF#32 0x7FFFFFFF#32)) = some (some 0x7FFFFFFF#32, 0#32) := by decide
theorem test_fxpSub_order :
    resStatus (exec .fxpSub (ops 0x00010000#32 0x00020000#32)) = some (some 0xFFFF0000#32, 0#32) := by decide
theorem test_fxpMul_floor :
    resStatus (exec (.fxpMul q16) (ops 0xFFFE8000#32 0x00000001#32)) = some (some 0xFFFFFFFE#32, 0#32) := by decide
theorem test_fxpMul_saturates :
    resStatus (exec (.fxpMul q16) (ops 0xFF380000#32 0x00C80000#32)) = some (some 0x80000000#32, 0#32) := by decide
theorem test_fxpDiv_toward_zero :
    resStatus (exec (.fxpDiv q16) (ops 0xFFFF0000#32 0x00030000#32)) = some (some 0xFFFFAAAB#32, 0#32) := by decide
theorem test_fxpDiv_by_zero :
    resStatus (exec (.fxpDiv q16) (ops 0x00010000#32 0#32)) = some (none, 0x80120012#32) := by decide
theorem test_fxpOne_saturates :
    resStatus (exec (.fxpOne ⟨31#5, 0#5⟩) State.reset) = some (some 0x7FFFFFFF#32, 0#32) := by decide
theorem test_fxpOne_format :
    statusWord (exec (.fxpOne ⟨16#5, 16#5⟩) State.reset) = some 0x80110011#32 := by decide

/-! ### Running mean (section 2.11) -/

/-- Program 2 step 2. -/
theorem test_meanInit : (after (exec (.meanInit q16 0#8) (ops 4#32 0#32))).map (fun t => t.meanAt 0) =
    some ⟨0#64, 0#32, 4#32, 16#5, true⟩ := by decide
/-- M5: the fifth sample is counted and not accumulated. -/
theorem test_meanAdd_capacity :
    (after (exec (.meanAdd 0#8) (meanState ⟨0xA0000#64, 4#32, 4#32, 16#5, true⟩ 0x50000#32))).map
      (fun t => (t.meanAt 0, t.res)) =
    some (⟨0xA0000#64, 5#32, 4#32, 16#5, true⟩, some 0xA0000#32) := by decide
/-- M20: the sample is sign-extended. -/
theorem test_meanAdd_negative :
    (after (exec (.meanAdd 0#8) (meanState ⟨0#64, 0#32, 4#32, 16#5, true⟩ 0xFFFFFFFB#32))).map
      (fun t => (t.res, t.resh)) = some (some 0xFFFFFFFB#32, some 0xFFFFFFFF#32) := by decide
/-- M10. -/
theorem test_meanReset :
    (after (exec (.meanReset 0#8) (meanState ⟨0xA0000#64, 5#32, 4#32, 16#5, true⟩ 0#32))).map
      (fun t => t.meanAt 0) = some ⟨0#64, 0#32, 4#32, 16#5, true⟩ := by decide
/-- M14: toward zero. -/
theorem test_meanCalc_override :
    resStatus (exec (.meanCalc 0#8) (meanState ⟨0xFFFFFFFFFFFEFFFF#64, 1#32, 4#32, 16#5, true⟩ 2#32)) =
    some (some 0xFFFF8000#32, 0#32) := by decide
/-- M18. -/
theorem test_meanCalc_by_zero :
    statusWord (exec (.meanCalc 0#8) (meanState ⟨0#64, 0#32, 0#32, 16#5, true⟩ 0#32)) =
    some 0x80120012#32 := by decide

/-! ### RDO engines (section 2.12) -/

/-- RV7: target 0 asks for rollover 15. -/
theorem test_rdoInit_default : (after (exec (.rdoInit 0#8) (ops 0#32 0#32))).map (fun t => t.rdoAt 0) =
    some ⟨0#16, 15#16, true, true⟩ := by decide
/-- RV14. -/
theorem test_rdoInit_reserved :
    statusWord (exec (.rdoInit 0#8) (ops 0x10000#32 0#32)) = some 0x801B001B#32 := by decide
/-- RV11: the sum is formed exactly. -/
theorem test_rdoAdvance_exact :
    (after (exec (.rdoAdvance 0#8) (rdoState ⟨0xFFFF#16, 15#16, true, true⟩ 0#32))).map
      (fun t => (t.rdoAt 0).offset) = some 1#16 := by decide
/-- RV9 and RV12. -/
theorem test_rdoGet :
    resStatus (exec (.rdoGet 0#8) (rdoState ⟨9#16, 5#16, true, true⟩ 0#32)) = some (some 9#32, 0#32) ∧
    resStatus (exec (.rdoGet 0#8) (rdoState ⟨3#16, 5#16, false, true⟩ 0#32)) = some (some 0#32, 0#32) := by
  decide
/-- RV12. -/
theorem test_rdoEnable_off :
    (after (exec (.rdoEnable 0#8) (rdoState ⟨3#16, 5#16, true, true⟩ 0#32))).map (fun t => t.rdoAt 0) =
    some ⟨3#16, 5#16, false, true⟩ := by decide
/-- RV15. -/
theorem test_rdoEnable_reserved :
    statusWord (exec (.rdoEnable 0#8) (rdoState ⟨3#16, 5#16, true, true⟩ 2#32)) = some 0x801B001B#32 := by
  decide

/-! ### Multiplexer (section 2.13) -/

/-- X1 and X2: FB_BYTES is 64. -/
theorem test_muxInit_limit :
    statusWord (exec .muxInit (ops 65#32 0#32)) = some 0x80180018#32 ∧
    (after (exec .muxInit (ops 64#32 0#32))).map (fun t => (t.muxState, t.muxMaxbuf)) =
      some (.configured, 64#16) := by decide
/-- X3. -/
theorem test_muxInit_twice : statusWord (exec .muxInit (tableState 8#32 0#32)) = some 0x80170017#32 := by decide
/-- X5: exactly full. -/
theorem test_muxAdd_fits :
    (after (exec .muxAdd (tableState 7#32 0x03020008#32))).map (fun t => (t.slotAt 0, t.muxOffset)) =
    some (⟨7#32, 8#16, 0#16, 2#8, 3#8⟩, 8#16) := by decide
/-- X8: no space; the table stays CONFIGURED. -/
theorem test_muxAdd_no_space :
    (after (exec .muxAdd (tableState 7#32 0x03020009#32))).map (fun t => (t.status.word, t.muxState)) =
    some (2#32, .configured) := by decide
/-- Program 3 step 13 (X12): the frame, the total and the engine. -/
theorem test_muxSend :
    (after (exec .muxSend prog3Send)).map (fun t => (t.fb, t.res, (t.rdoAt 0).offset)) =
    some (prog3Recv.fb, some 6#32, 1#16) := by decide
/-- X16: the first slot's effects stay after the second slot's fault. -/
theorem test_muxSend_fault_keeps :
    (after (exec .muxSend { prog3 with
        slots := prog3.slots.set 1 ⟨0x11#32, 3#16, 2#16, 0#8, 2#8⟩ })).map
      (fun t => (t.fb, t.res, t.status.word)) =
    some ([(0, 0x00#8), (1, 0x01#8)], none, 0x801A001A#32) := by decide
/-- X12: each client receives its own bytes; the engine takes the received offset. -/
theorem test_muxRecv :
    (after (exec .muxRecv prog3Recv)).map (fun t => (t.requests, (t.rdoAt 0).offset)) =
    some ([.recvReq 0 0x11#32 [0xAA#8, 0xBB#8, 0xCC#8], .recvReq 1 0x22#32 [0x7E#8]], 1#16) := by decide
/-- X18. -/
theorem test_muxRecv_short :
    statusWord (exec .muxRecv { prog3Recv with opa := some 5#32 }) = some 0x80190019#32 := by decide

/-! ### The bus (section 2.14) -/

/-- DV9: a bus fault leaves CODE and the read returns 0. -/
theorem test_bus_width :
    (after (step (withEvent State.reset (.read 0x40000014 16)))).map (fun t => (t.reply, t.status.word)) =
    some (some 0#32, 0x801D0000#32) := by decide
/-- DV16. -/
theorem test_bus_param0 :
    (after (step (withEvent State.reset (.read 0x40000028 32)))).map (fun t => t.reply) =
    some (some 0x02010204#32) := by decide
/-- DV18: CMD is ignored after a fault. -/
theorem test_bus_cmd_ignored :
    (after (step (withEvent { ops 1#32 2#32 with status := ⟨0x12#8, false, 0x12#8, true⟩ }
      (.write 0x40000000 32 0x18000000#32)))).map (fun t => (t.res, t.status.word)) =
    some (none, 0x80120012#32) := by decide
/-- The command the host of this pipeline places is the one the next step runs. -/
theorem test_withFetchWord : (after (step ((ops 1#32 2#32).withFetchWord 32 0x18000000))).map (fun t => t.res) =
    some (some 3#32) := by decide

/-! ### Witnesses: the hypotheses of each obligation, met together -/

/-- The table's invariant from its decidable part: beyond the table every descriptor is zero anyway. -/
theorem tableInv_of (s : State)
    (h : s.cfg.Legal ∧ s.slots.length = s.cfg.muxMaxSlots ∧ s.muxCount.toNat ≤ s.cfg.muxMaxSlots ∧
      s.muxOffset.toNat = frameLen s.slots s.muxCount.toNat ∧ s.muxOffset.toNat ≤ s.muxMaxbuf.toNat ∧
      s.muxMaxbuf.toNat ≤ s.cfg.fbBytes)
    (hi : ∀ i, i < s.muxCount.toNat → (s.slotAt i).index.toNat = frameLen s.slots i)
    (hu : ∀ i, i < s.slots.length → s.muxCount.toNat ≤ i → s.slotAt i = Slot.zero)
    (hb : s.muxState = .built ↔ 1 ≤ s.muxCount.toNat)
    (hn : s.muxState = .unconfigured → s.muxMaxbuf = 0#16) : s.TableInv := by
  refine ⟨h.1, h.2.1, h.2.2.1, h.2.2.2.1, h.2.2.2.2.1, h.2.2.2.2.2, hi, fun i hc => ?_, hb, hn⟩
  by_cases hl : i < s.slots.length
  · exact hu i hl hc
  · simp [State.slotAt, List.getD, List.getElem?_eq_none (Nat.le_of_not_lt hl)]

theorem reset_tableInv : State.reset.TableInv :=
  tableInv_of _ (by decide) (by decide) (by decide) (by decide) (by decide)

theorem tableState_tableInv : (tableState 0#32 0#32).TableInv :=
  tableInv_of _ (by decide) (by decide) (by decide) (by decide) (by decide)

theorem prog3_tableInv : prog3.TableInv :=
  tableInv_of _ (by decide) (by decide) (by decide) (by decide) (by decide)

theorem prog3Send_tableInv : prog3Send.TableInv :=
  tableInv_of _ (by decide) (by decide) (by decide) (by decide) (by decide)

theorem prog3Recv_tableInv : prog3Recv.TableInv :=
  tableInv_of _ (by decide) (by decide) (by decide) (by decide) (by decide)

/-- Program 3's table with a fourth slot, so that it is full. -/
def fullTable : State :=
  { prog3 with
    slots := prog3.slots.set 3 ⟨0#32, 0#16, 6#16, 2#8, 2#8⟩, muxCount := 4#6, opb := some 0#32 }

/-- Program 3's MUX_SEND, waiting for its first external client; no answer has come. -/
def waitingSend : State :=
  { prog3 with
    rdo := [⟨1#16, 5#16, true, true⟩], fb := [(0, 0x00#8), (1, 0x01#8)], busy := some (.sendRsp 1),
    requests := [.sendReq 0 0x11#32 3] }

/-- Program 3's MUX_RECV, waiting for its first external client. -/
def waitingRecv : State := { prog3Recv with clients := [], busy := some (.recvAck 1) }

theorem witness_DecodeAndEncodeAgree : decode 0x420F0100#32 = .ok (.meanInit q16 1#8) := by decide

theorem witness_DecodeAgreesWithOpcodeTable : decode 0x420F0100#32 = .ok (.meanInit q16 1#8) ∧
    (Instr.meanInit ⟨0#5, 3#5⟩ 9#8).spelledBy 0x420F0100#32 := by decide

theorem witness_StepRunsDecodedCommand :
    (withEvent (ops 1#32 2#32) (.write 0x40000000 32 0x18000000#32)).busy = none ∧
    (withEvent (ops 1#32 2#32) (.write 0x40000000 32 0x18000000#32)).status.fault = false ∧
    (withEvent (ops 1#32 2#32) (.write 0x40000000 32 0x18000000#32)).bus =
      .write ((ops 1#32 2#32).cfg.fxmuxBase + 0x000) 32 0x18000000#32 :: [] ∧
    decode 0x18000000#32 = .ok .fxpAdd := by decide

theorem witness_UnmatchedWordIsIllegal :
    (withEvent State.reset (.write 0x40000000 32 0x18000001#32)).busy = none ∧
    (withEvent State.reset (.write 0x40000000 32 0x18000001#32)).status.fault = false ∧
    (withEvent State.reset (.write 0x40000000 32 0x18000001#32)).bus =
      .write (State.reset.cfg.fxmuxBase + 0x000) 32 0x18000001#32 :: [] ∧
    ((0x00000000#32).toNat / 2 ^ 26 = 0x00 ∧ (0x2C000000#32).toNat / 2 ^ 26 = 0x0B ∧
      (0xFC000000#32).toNat / 2 ^ 26 = 0x3F) ∧
    ((0x18000001#32).toNat / 2 ^ 26 = Instr.fxpAdd.rowMatch.toNat / 2 ^ 26) ∧
    ∀ i : Instr, ¬ i.spelledBy 0x18000001#32 :=
  ⟨by decide, by decide, by decide, by decide, by decide, fun i => by
    cases i <;> simp only [Instr.spelledBy, Instr.rowMask, Instr.rowMatch] <;> decide⟩

/-- One state for each clause: FAULT set, and clear. -/
theorem witness_CommandEndsInOneOfThreeWays :
    (withEvent { State.reset with status := ⟨0x10#8, false, 0x10#8, true⟩ }
      (.write 0x40000000 32 0x18000000#32)).status.fault = true ∧
    (withEvent prog3Send (.write 0x40000000 32 0x88000000#32)).busy = none ∧
    (withEvent prog3Send (.write 0x40000000 32 0x88000000#32)).status.fault = false ∧
    (withEvent prog3Send (.write 0x40000000 32 0x88000000#32)).bus =
      .write (prog3Send.cfg.fxmuxBase + 0x000) 32 0x88000000#32 :: [] := by decide

/-- P + I = 32 is the first illegal format; the number of accumulators is the first SEL out of range. -/
theorem witness_FormatAndSelectChecksFault : ¬ (Instr.fxpMul ⟨16#5, 16#5⟩).formatOk ∧
    (Instr.meanInit ⟨31#5, 0#5⟩ 2#8).formatOk ∧
    ¬ (Instr.meanInit ⟨31#5, 0#5⟩ 2#8).selectOk State.reset.cfg := by decide

theorem witness_InstanceNotReadyFaults :
    ((Instr.meanAdd 1#8).WellFormed State.reset.cfg ∧ ¬ (Instr.meanAdd 1#8).InstanceReady State.reset) ∧
    (Instr.muxInit.WellFormed prog3.cfg ∧ ¬ Instr.muxInit.InstanceReady prog3) := by decide

/-- OPA unwritten, and OPB unwritten with OPA written. -/
theorem witness_UnwrittenOperandFaults :
    ((Instr.fxpF2q q16).WellFormed State.reset.cfg ∧ (Instr.fxpF2q q16).InstanceReady State.reset ∧
      (Instr.fxpF2q q16).readsA = true ∧ State.reset.opa = none) ∧
    (Instr.muxAdd.WellFormed prog3.cfg ∧ Instr.muxAdd.InstanceReady prog3 ∧
      Instr.muxAdd.readsB = true ∧ prog3.opb = none) := by decide

/-- For the checks that the result statements repeat (`ChecksFirst`): an engine number and an accumulator number
one too large, an instance that is not ready, and an operand that is not written, in each family. -/
theorem witness_ChecksFirst :
    (¬ (Instr.meanAdd 2#8).selectOk State.reset.cfg ∧ ¬ (Instr.rdoGet 1#8).selectOk State.reset.cfg) ∧
    ((Instr.rdoAdvance 0#8).WellFormed State.reset.cfg ∧ ¬ (Instr.rdoAdvance 0#8).InstanceReady State.reset) ∧
    (¬ Instr.muxAdd.InstanceReady State.reset) ∧
    ((Instr.rdoInit 0#8).InstanceReady State.reset ∧ (Instr.rdoInit 0#8).readsA = true ∧
      State.reset.opa = none) ∧
    (Instr.muxInit.InstanceReady State.reset ∧ Instr.muxInit.readsA = true) ∧
    ((Instr.meanInit q16 1#8).WellFormed State.reset.cfg ∧ (Instr.meanInit q16 1#8).readsA = true) ∧
    Instr.fxpAdd.readsB = true := by decide

/-- A command that writes RES; one that leaves it; one that faults with RES written before. -/
theorem witness_CommandsWriteOnlyTheirState : (∃ t, exec .fxpAdd (ops 1#32 2#32) = .next t) ∧
    (∃ t, exec .muxInit (ops 64#32 0#32) = .next t) ∧
    ∃ t, exec (.fxpDiv q16) { ops 1#32 0#32 with res := some 7#32 } = .next t ∧
      t.status.code = FaultCode.divisionByZero.byte := ⟨⟨_, rfl⟩, ⟨_, rfl⟩, _, rfl, rfl⟩

/-- The requests at the ends of each clause of FxpInitResult: nothing; 32 in all; one-sided 1 and 31; both
given, 31 in all. -/
theorem witness_FxpInitResult :
    (ops 0#32 0#32).opa = some 0#32 ∧ (ops 0#32 0#32).opb = some 0#32 ∧
    32 ≤ (16#32).toNat + (16#32).toNat ∧ (0 < (31#32).toNat ∧ (31#32).toNat ≤ 31) ∧
    (0 < (1#32).toNat ∧ (1#32).toNat ≤ 31) ∧
    (0 < (15#32).toNat ∧ 0 < (16#32).toNat ∧ (15#32).toNat + (16#32).toNat ≤ 31) := by decide

/-- P + I = 31 is a legal format; a float of each kind. -/
theorem witness_FxpF2qResult : (⟨31#5, 0#5⟩ : Fmt).Legal ∧ (ops 0x7FC00000#32 0#32).opa = some 0x7FC00000#32 ∧
    f32Decode 0x7FC00000#32 = .nan ∧ f32Decode 0x7F800000#32 = .inf false ∧
    f32Decode 0xFF800000#32 = .inf true ∧ f32Decode 0x00000001#32 = .finite 1 := by decide

/-- The tie of the table of section 2.3: 0x01000001 in Q31.0 lies between 0x4B800000 and 0x4B800001. -/
theorem witness_FxpQ2fResult : (⟨0#5, 31#5⟩ : Fmt).Legal ∧ (ops 0x01000001#32 0#32).opa = some 0x01000001#32 ∧
    f32Decode 0x4B800000#32 = .finite (16777216 * 2 ^ 149) ∧
    f32Decode 0x4B800001#32 = .finite (16777218 * 2 ^ 149) ∧
    (16777217 - 16777216 : Int) = 16777218 - 16777217 ∧ (0x01000001#32).toInt = 16777217 := by decide

/-- 3.14159, and both ends of the clamp range of Q15.16. -/
theorem witness_FloatRoundTripWithinOneUnit : q16.Legal ∧ (ops 0x46FFFE00#32 0#32).opa = some 0x46FFFE00#32 ∧
    f32Decode 0x46FFFE00#32 = .finite (32767 * 2 ^ 149) ∧ f32Decode 0xC7000000#32 = .finite (-32768 * 2 ^ 149) ∧
    (-2 ^ q16.fi.toNat * 2 ^ 149 : Int) ≤ -32768 * 2 ^ 149 ∧
    (32767 * 2 ^ 149 : Int) ≤ (2 ^ q16.fi.toNat - 1) * 2 ^ 149 := by decide

theorem witness_FxpIntegerConversionResults : (⟨31#5, 0#5⟩ : Fmt).Legal ∧ (⟨0#5, 31#5⟩ : Fmt).Legal ∧
    (ops 1#32 0#32).opa = some 1#32 := by decide

theorem witness_FxpAddSubResult : (ops 1#32 2#32).opa = some 1#32 ∧ (ops 1#32 2#32).opb = some 2#32 := by decide

theorem witness_FxpMulResult : q16.Legal ∧ (ops 1#32 2#32).opa = some 1#32 ∧ (ops 1#32 2#32).opb = some 2#32 := by
  decide

/-- A zero divisor and a divisor of minus one. -/
theorem witness_FxpDivResult : q16.Legal ∧ (ops 1#32 0#32).opa = some 1#32 ∧ (ops 1#32 0#32).opb = some 0#32 ∧
    (ops 1#32 0xFFFFFFFF#32).opb = some 0xFFFFFFFF#32 ∧ 0xFFFFFFFF#32 ≠ 0#32 := by decide

/-- The last accumulator, SEL = 1 of two, and a valid one. -/
theorem witness_MeanInitAndResetResults : (ops 4#32 0#32).mean.length = (ops 4#32 0#32).cfg.meanCount ∧
    (1#8).toNat < (ops 4#32 0#32).cfg.meanCount ∧ q16.Legal ∧ (ops 4#32 0#32).opa = some 4#32 ∧
    (meanState ⟨9#64, 4#32, 4#32, 16#5, true⟩ 0#32).mean.length = State.reset.cfg.meanCount ∧
    ((meanState ⟨9#64, 4#32, 4#32, 16#5, true⟩ 0#32).meanAt 0).valid = true := by decide

/-- The last sample that is added (INDEX 3 of 4) and the first that is not (INDEX 4). -/
theorem witness_MeanAddResult : (0#8).toNat < State.reset.cfg.meanCount ∧
    ((meanState ⟨9#64, 3#32, 4#32, 16#5, true⟩ 7#32).meanAt 0).valid = true ∧
    (meanState ⟨9#64, 3#32, 4#32, 16#5, true⟩ 7#32).opa = some 7#32 ∧
    (3#32).toNat < (4#32).toNat ∧ ¬ (4#32).toNat < (4#32).toNat := by decide

/-- Override 0 with MAXSIZE 0 (divisor 0) and with MAXSIZE 4, and an override of 1. -/
theorem witness_MeanCalcResult : (0#8).toNat < State.reset.cfg.meanCount ∧
    ((meanState ⟨9#64, 3#32, 0#32, 16#5, true⟩ 0#32).meanAt 0).valid = true ∧
    (meanState ⟨9#64, 3#32, 0#32, 16#5, true⟩ 0#32).opa = some 0#32 ∧
    ((meanState ⟨9#64, 3#32, 0#32, 16#5, true⟩ 0#32).meanAt 0).maxSize.toNat = 0 ∧
    ((meanState ⟨9#64, 3#32, 4#32, 16#5, true⟩ 0#32).meanAt 0).maxSize.toNat = 4 ∧
    (1#32 ≠ 0#32 ∧ (1#32).toNat = 1) := by decide

theorem witness_MeanCalcTwiceIsOnce :
    ∃ t, exec (.meanCalc 0#8) (meanState ⟨9#64, 3#32, 4#32, 16#5, true⟩ 0#32) = .next t := ⟨_, rfl⟩

/-- Both ends of the exponent's special values, and fractions on each side of their clauses. -/
theorem witness_BinaryFloatLayout : (255#8 = 255#8 ∧ 0#23 = 0#23) ∧ 1#23 ≠ 0#23 ∧
    (1#8 ≠ 0#8 ∧ 1#8 ≠ 255#8) ∧ 254#8 ≠ 0#8 ∧ 254#8 ≠ 255#8 := by decide

theorem witness_MeanWindowSumsFirstSamples : (0#8).toNat < State.reset.cfg.meanCount ∧
    ((meanState ⟨0#64, 0#32, 2#32, 16#5, true⟩ 0#32).meanAt 0).valid = true ∧
    ((meanState ⟨0#64, 0#32, 2#32, 16#5, true⟩ 0#32).meanAt 0).sum = 0#64 ∧
    ((meanState ⟨0#64, 0#32, 2#32, 16#5, true⟩ 0#32).meanAt 0).index = 0#32 ∧
    [1#32, 2#32, 3#32].length < 2 ^ 32 := by decide

/-- The last target without reserved bits and the first with one. -/
theorem witness_RdoInitResult : (ops 0xFFFF#32 0#32).rdo.length = (ops 0xFFFF#32 0#32).cfg.rdoCount ∧
    (0#8).toNat < (ops 0xFFFF#32 0#32).cfg.rdoCount ∧ (ops 0xFFFF#32 0#32).opa = some 0xFFFF#32 ∧
    (0xFFFF#32).toNat < 2 ^ 16 ∧ 2 ^ 16 ≤ (0x10000#32).toNat := by decide

theorem witness_RdoAdvanceResult : (0#8).toNat < State.reset.cfg.rdoCount ∧
    ((rdoState ⟨0#16, 1#16, true, true⟩ 0#32).rdoAt 0).valid = true ∧
    ((rdoState ⟨0#16, 1#16, true, true⟩ 0#32).rdoAt 0).rollover ≠ 0#16 := by decide

/-- An enabled engine and a disabled one. -/
theorem witness_RdoGetResult : (0#8).toNat < State.reset.cfg.rdoCount ∧
    ((rdoState ⟨3#16, 5#16, true, true⟩ 0#32).rdoAt 0).valid = true ∧
    ((rdoState ⟨3#16, 5#16, true, true⟩ 0#32).rdoAt 0).enabled = true ∧
    ((rdoState ⟨3#16, 5#16, false, true⟩ 0#32).rdoAt 0).enabled = false := by decide

/-- OPA = 1, the last legal operand, and 2, the first with a reserved bit. -/
theorem witness_RdoEnableResult : (0#8).toNat < State.reset.cfg.rdoCount ∧
    ((rdoState ⟨3#16, 5#16, true, true⟩ 1#32).rdoAt 0).valid = true ∧
    (rdoState ⟨3#16, 5#16, true, true⟩ 1#32).opa = some 1#32 ∧ (1#32).toNat < 2 ∧ 2 ≤ (2#32).toNat := by decide

theorem witness_RdoRolloverSequence : (ops 5#32 0#32).rdo.length = (ops 5#32 0#32).cfg.rdoCount ∧
    (0#8).toNat < (ops 5#32 0#32).cfg.rdoCount ∧ (ops 5#32 0#32).opa = some 5#32 ∧ (5#32).toNat < 2 ^ 16 := by
  decide

/-- FB_BYTES itself and one more. -/
theorem witness_MuxInitResult : State.reset.cfg.Legal ∧ (ops 64#32 0#32).muxState = .unconfigured ∧
    (ops 64#32 0#32).opa = some 64#32 ∧ (64#32).toNat ≤ State.reset.cfg.fbBytes ∧
    State.reset.cfg.fbBytes < (65#32).toNat := by decide

theorem fullTable_tableInv : fullTable.TableInv :=
  tableInv_of _ (by decide) (by decide) (by decide) (by decide) (by decide)

theorem tableState8_tableInv : (tableState 7#32 0x03020008#32).TableInv :=
  tableInv_of _ (by decide) (by decide) (by decide) (by decide) (by decide)

/-- A full table; a slot one byte too large for MUX_MAXBUF = 8; one that fits exactly. -/
theorem witness_MuxAddResult :
    (fullTable.TableInv ∧ fullTable.muxState ≠ .unconfigured ∧ fullTable.opa = some 6#32 ∧
      fullTable.opb = some (0#8 ++ 0#8 ++ 0#16) ∧ fullTable.muxCount.toNat = fullTable.cfg.muxMaxSlots) ∧
    ((tableState 7#32 0x03020008#32).TableInv ∧ (tableState 7#32 0x03020008#32).muxState ≠ .unconfigured ∧
      (tableState 7#32 0x03020008#32).opb = some (3#8 ++ 2#8 ++ 8#16) ∧
      (tableState 7#32 0x03020008#32).muxCount.toNat ≠ State.reset.cfg.muxMaxSlots ∧
      0 + (8#16).toNat ≤ (tableState 7#32 0x03020008#32).muxMaxbuf.toNat ∧
      (tableState 7#32 0x03020008#32).muxMaxbuf.toNat < 0 + (9#16).toNat) :=
  ⟨⟨fullTable_tableInv, by decide⟩, ⟨tableState8_tableInv, by decide⟩⟩

theorem witness_AddsLayOutTheFrame : (tableState 0#32 0#32).TableInv ∧
    (tableState 0#32 0#32).muxState = .configured ∧
    [(0#32, 0x01010002#32), (0x11#32, 0x02020003#32), (0x22#32, 0x03030001#32), (0#32, 2#32)].length ≤
      (tableState 0#32 0#32).cfg.muxMaxSlots ∧
    ([(0#32, 0x01010002#32), (0x11#32, 0x02020003#32), (0x22#32, 0x03030001#32), (0#32, 2#32)].map
      (fun p => p.2.toNat % 2 ^ 16)).sum ≤ (tableState 0#32 0#32).muxMaxbuf.toNat :=
  ⟨tableState_tableInv, by decide, by decide, by decide⟩

/-- For MuxSendCompletes, MuxSendWritesAnswers and MuxSendWritesEngineOffsets. -/
theorem witness_MuxSendCompletes : prog3Send.TableInv ∧ prog3Send.muxState ≠ .unconfigured ∧
    prog3Send.busy = none ∧ sendBound prog3Send ∧
    answersFit (sendClients prog3Send.cfg prog3Send.registered) sent ∧
    prog3Send.clients = sent.map .sendRsp ++ [.recvAck, .recvAck] :=
  ⟨prog3Send_tableInv, by decide, by decide, by decide, by decide, by decide⟩

theorem witness_MuxSendWritesAnswers : (∃ t, exec .muxSend prog3Send = .next t) ∧
    (sendClients prog3Send.cfg prog3Send.registered)[1]? = some ⟨0x22#32, 1#16, 5#16, 3#8, 3#8⟩ ∧
    sent[1]? = some [0x7E#8] ∧ 0 < [0x7E#8].length := ⟨⟨_, rfl⟩, by decide, by decide, by decide⟩

theorem prog3Send_engineInv : prog3Send.EngineInv := ⟨by decide, by decide, by decide⟩

/-- Slots whose two handlers differ: engine to client, client to client, client to engine, and a second slot of
the first slot's engine. -/
def mixedSend : State :=
  { prog3 with
    slots := [⟨0#32, 2#16, 0#16, 1#8, 2#8⟩, ⟨0x11#32, 3#16, 2#16, 2#8, 3#8⟩, ⟨0#32, 2#16, 5#16, 2#8, 1#8⟩,
              ⟨0#32, 2#16, 7#16, 1#8, 1#8⟩]
    muxCount := 4#6, muxOffset := 9#16, muxMaxbuf := 9#16
    clients := [.sendRsp [0xAA#8, 0xBB#8, 0xCC#8], .sendRsp [0x12#8, 0x34#8], .recvAck, .recvAck] }

theorem mixedSend_tableInv : mixedSend.TableInv :=
  tableInv_of _ (by decide) (by decide) (by decide) (by decide) (by decide)

theorem mixedSend_engineInv : mixedSend.EngineInv := ⟨by decide, by decide, by decide⟩

/-- Two slots of one engine: the earlier carries 1, the later 2, big-endian. -/
theorem test_muxSend_two_slots_of_one_engine :
    (after (exec .muxSend mixedSend)).map (fun t => (t.fb.take 2, t.fb.drop 7, (t.rdoAt 0).offset)) =
    some ([(0, 0x00#8), (1, 0x01#8)], [(7, 0x00#8), (8, 0x02#8)], 2#16) := by decide

/-- Engine 0 is named by one slot, engine 1 (which is not there) by none; slot 0 is the last of its engine.
Then two slots of one engine. -/
theorem witness_MuxSendWritesEngineOffsets : prog3Send.EngineInv ∧
    prog3Send.registered.countP (fun d => decide (d.send = 1#8 ∧ d.inst.toNat = 0)) = 1 ∧
    prog3Send.registered.countP (fun d => decide (d.send = 1#8 ∧ d.inst.toNat = 1)) = 0 ∧
    0 < prog3Send.muxCount.toNat ∧ (prog3Send.slotAt 0).send = 1#8 ∧
    (∀ j, j < prog3Send.muxCount.toNat → 0 < j → (prog3Send.slotAt j).send ≠ 1#8) ∧
    mixedSend.TableInv ∧ mixedSend.EngineInv ∧ (∃ t, exec .muxSend mixedSend = .next t) ∧
    mixedSend.sentOffset 0 = 1 ∧ mixedSend.sentOffset 3 = 2 :=
  ⟨prog3Send_engineInv, by decide, by decide, by decide, by decide, by decide, mixedSend_tableInv,
    mixedSend_engineInv, ⟨_, rfl⟩, by decide, by decide⟩

/-- Byte 6, the first beyond the frame, is in no window. -/
theorem witness_MuxSendStaysInWindows : (∃ t, exec .muxSend prog3Send = .next t) ∧
    ∀ i, i < prog3Send.muxCount.toNat → ¬ ((prog3Send.slotAt i).index.toNat ≤ 6 ∧
      6 < (prog3Send.slotAt i).index.toNat + (prog3Send.slotAt i).size.toNat) := ⟨⟨_, rfl⟩, by decide⟩

theorem witness_MuxRecvCompletes : prog3Recv.TableInv ∧ prog3Recv.muxState ≠ .unconfigured ∧
    prog3Recv.busy = none ∧ recvBound prog3Recv ∧ prog3Recv.opa = some 6#32 ∧
    prog3Recv.muxOffset.toNat ≤ (6#32).toNat ∧
    (∀ a, a < prog3Recv.muxOffset.toNat → Memory.read prog3Recv.fb a ≠ none) ∧
    prog3Recv.clients =
      List.replicate (recvClients prog3Recv.cfg prog3Recv.registered).length .recvAck ++ [] :=
  ⟨prog3Recv_tableInv, by decide, by decide, by decide, by decide, by decide, by decide, by decide⟩

theorem witness_MuxRecvStoresOffsets : prog3Recv.TableInv ∧
    (∃ t, exec .muxRecv prog3Recv = .next t ∧ t.busy = none ∧ t.status.code = 0x00#8) ∧
    (∀ d ∈ prog3Recv.registered, d.recv = 1#8 → d.inst.toNat ≠ 1) ∧
    0 < prog3Recv.muxCount.toNat ∧ (prog3Recv.slotAt 0).recv = 1#8 ∧
    ∀ j, j < prog3Recv.muxCount.toNat → 0 < j → (prog3Recv.slotAt j).recv ≠ 1#8 :=
  ⟨prog3Recv_tableInv, ⟨_, rfl, rfl, rfl⟩, by decide, by decide, by decide, by decide⟩

/-- Slots whose handlers differ, and Program 3's, where they agree. -/
theorem witness_FrameRoundTrip :
    (mixedSend.TableInv ∧ mixedSend.EngineInv ∧ mixedSend.muxState ≠ .unconfigured ∧ mixedSend.busy = none ∧
      sendBound mixedSend ∧ recvBound mixedSend ∧
      answersFit (sendClients mixedSend.cfg mixedSend.registered) [[0xAA#8, 0xBB#8, 0xCC#8], [0x12#8, 0x34#8]] ∧
      mixedSend.clients = [[0xAA#8, 0xBB#8, 0xCC#8], [0x12#8, 0x34#8]].map .sendRsp ++
        (List.replicate (recvClients mixedSend.cfg mixedSend.registered).length .recvAck ++ []) ∧
      ∃ t, exec .muxSend mixedSend = .next t) ∧
    (prog3Send.TableInv ∧ prog3Send.busy = none ∧ sendBound prog3Send ∧ recvBound prog3Send ∧
      answersFit (sendClients prog3Send.cfg prog3Send.registered) sent ∧
      prog3Send.clients = sent.map .sendRsp ++
        (List.replicate (recvClients prog3Send.cfg prog3Send.registered).length .recvAck ++ []) ∧
      (∃ t, exec .muxSend prog3Send = .next t) ∧ ∀ d ∈ prog3Send.registered, d.recv = d.send) :=
  ⟨⟨mixedSend_tableInv, mixedSend_engineInv, by decide, by decide, by decide, by decide, by decide, by decide,
      _, rfl⟩,
    prog3Send_tableInv, by decide, by decide, by decide, by decide, by decide, ⟨_, rfl⟩, by decide⟩

/-- The slot for the clause of ReceiveAndDispatchFaults under test, as slot 1 of Program 3. -/
def slotUnder (d : Slot) : State := { prog3 with slots := prog3.slots.set 1 d }

/-- A frame one byte short; handlers 0 and 4 (the ports are 2 and 3); an engine that is not there, one that is
not valid, a slot of 3 bytes; an unwritten byte at either end of an external slot's window and in an
engine's. -/
theorem witness_ReceiveAndDispatchFaults :
    (prog3.muxState ≠ .unconfigured ∧ (5#32).toNat < prog3.muxOffset.toNat) ∧
    (∀ h ∈ [0#8, 4#8], h ≠ 1#8 ∧ ¬ isExternal prog3.cfg h) ∧
    ((slotUnder ⟨1#32, 2#16, 2#16, 1#8, 1#8⟩).cfg.rdoCount ≤
      ((slotUnder ⟨1#32, 2#16, 2#16, 1#8, 1#8⟩).slotAt 1).inst.toNat) ∧
    (State.reset.cfg.rdoCount > 0 ∧ (State.reset.rdoAt 0).valid = false) ∧
    ((slotUnder ⟨0#32, 3#16, 2#16, 1#8, 1#8⟩).rdoAt 0).valid = true ∧
    (∀ a ∈ [2, 4], (prog3.slotAt 1).index.toNat ≤ a ∧
      a < (prog3.slotAt 1).index.toNat + (prog3.slotAt 1).size.toNat ∧ Memory.read prog3.fb a = none) ∧
    (isExternal prog3.cfg (prog3.slotAt 1).recv ∧ (prog3.slotAt 1).recv ≠ 1#8) ∧
    ((prog3.slotAt 0).recv = 1#8 ∧ engineReady prog3 (prog3.slotAt 0) ∧ Memory.read prog3.fb 1 = none) := by
  decide

/-- X16 for the send; for the receive, Program 3's frame with its last byte never written. -/
theorem witness_DispatchFaultKeepsEarlierSlots :
    ((slotUnder ⟨0x11#32, 3#16, 2#16, 0#8, 2#8⟩).muxState ≠ .unconfigured ∧
      1 < (slotUnder ⟨0x11#32, 3#16, 2#16, 0#8, 2#8⟩).muxCount.toNat ∧
      ∃ u v, walkSlots sendDispatch 1 0 (slotUnder ⟨0x11#32, 3#16, 2#16, 0#8, 2#8⟩) = .done u ∧
        sendDispatch 1 u = .stop .unboundHandler v) ∧
    (prog3Recv.muxState ≠ .unconfigured ∧ 2 < prog3Recv.muxCount.toNat ∧
      ∃ u v, walkSlots recvDispatch 2 0 { prog3Recv with fb := prog3Recv.fb.take 5 } = .done u ∧
        recvDispatch 2 u = .stop .unwrittenRead v) :=
  ⟨⟨by decide, by decide, _, _, rfl, rfl⟩, ⟨by decide, by decide, _, _, rfl, rfl⟩⟩

theorem witness_WaitingThenAnswersEqualsAtOnce :
    (prog3.busy = none ∧ prog3.bus = [] ∧ ∃ t, exec .muxSend prog3 = .next t ∧ t.busy ≠ none) ∧
    ∃ t, exec .muxRecv { prog3Recv with clients := [] } = .next t ∧ t.busy ≠ none :=
  ⟨⟨by decide, by decide, _, rfl, by decide⟩, _, rfl, by decide⟩

/-- A send that waits with no answer, a receive that waits, and a send whose client's answer is a byte short. -/
theorem witness_StuckOnlyOnSilentClient :
    (∃ t, exec .muxSend prog3 = .next t ∧ t.busy = some (.sendRsp 1)) ∧
    (∃ t, exec .muxRecv { prog3Recv with clients := [] } = .next t ∧ t.busy = some (.recvAck 1)) ∧
    (waitingSend.bus = [] ∧ waitingSend.busy = some (.sendRsp 1) ∧ waitingSend.clients = []) ∧
    (waitingRecv.bus = [] ∧ waitingRecv.busy = some (.recvAck 1) ∧ waitingRecv.clients = []) ∧
    [0xAA#8, 0xBB#8].length ≠ (waitingSend.slotAt 1).size.toNat :=
  ⟨⟨_, rfl, by decide⟩, ⟨_, rfl, by decide⟩, by decide, by decide, by decide⟩

/-- The last slot's handlers, which have a value, and RES after reset, which has none. -/
theorem witness_RegisterReadReturnsContents : State.reset.cfg.Legal ∧
    (Reg.slotHandlers 3).Exists State.reset.cfg ∧ State.reset.busy = none ∧
    (withEvent State.reset (.read 0x4000023C 32)).bus =
      .read (State.reset.cfg.fxmuxBase + (Reg.slotHandlers 3).offset) 32 :: [] ∧
    regRead State.reset (.slotHandlers 3) = some 0#32 ∧ regRead State.reset .res = none := by decide

/-- A legal configuration, and a state for each value of MUX_STATE. -/
theorem witness_PackedRegisterLayout : State.reset.cfg.Legal ∧ State.reset.muxState = .unconfigured ∧
    (tableState 0#32 0#32).muxState = .configured ∧ prog3.muxState = .built := by decide

theorem no_register_at_030 (r : Reg) : r.Exists State.reset.cfg → r.offset ≠ 0x030 := by
  cases r <;> simp [Reg.Exists, Reg.offset] <;> omega

/-- A 16-bit access to STATUS, an empty offset, a 32-bit access to FB[0], and FB[64] of 64 bytes. -/
theorem witness_BadAccessFaults : State.reset.busy = none ∧
    (0x014 < 0x1000 ∧ 16 ≠ 32) ∧ (∀ r : Reg, r.Exists State.reset.cfg → r.offset ≠ 0x030) ∧
    (0x1000 ≤ 0x1000 ∧ 32 ≠ 8) ∧ (0x1000 ≤ 0x1040 ∧ State.reset.cfg.fbBytes ≤ 0x1040 - 0x1000) ∧
    (withEvent State.reset (.read 0x40000030 32)).bus = .read (State.reset.cfg.fxmuxBase + 0x030) 32 :: [] ∧
    (withEvent State.reset (.write 0x40001040 8 0#32)).bus =
      .write (State.reset.cfg.fxmuxBase + 0x1040) 8 0#32 :: [] :=
  ⟨by decide, by decide, no_register_at_030, by decide, by decide, by decide, by decide⟩

/-- OPA, OPB, the registers next to them (RES, at 0x00C) and the last one (RDO CTRL). -/
theorem witness_RegisterWriteRights : State.reset.cfg.Legal ∧ State.reset.busy = none ∧
    (withEvent State.reset (.write 0x40000004 32 7#32)).bus =
      .write (State.reset.cfg.fxmuxBase + 0x004) 32 7#32 :: [] ∧
    (withEvent State.reset (.write 0x40000008 32 7#32)).bus =
      .write (State.reset.cfg.fxmuxBase + 0x008) 32 7#32 :: [] ∧
    (Reg.res.Exists State.reset.cfg ∧ Reg.res.offset = 0x00C) ∧
    ((Reg.rdoCtrl 0).Exists State.reset.cfg ∧ (Reg.rdoCtrl 0).offset = 0x408) ∧
    (withEvent State.reset (.write 0x40000408 32 7#32)).bus =
      .write (State.reset.cfg.fxmuxBase + (Reg.rdoCtrl 0).offset) 32 7#32 :: [] := by decide

/-- FB[63], the last byte, written; then itself, a written byte and an unwritten one read. -/
theorem witness_FrameByteReadAfterWrite : prog3Recv.busy = none ∧ 63 < prog3Recv.cfg.fbBytes ∧
    prog3Recv.cfg.fbBytes ≤ 4096 ∧
    ({ prog3Recv with bus := [.write 0x4000103F 8 0x1FF#32, .read 0x40001005 8] } : State).bus =
      .write (prog3Recv.cfg.fxmuxBase + 0x1000 + 63) 8 0x1FF#32 ::
        .read (prog3Recv.cfg.fxmuxBase + 0x1000 + 5) 8 :: [] ∧
    5 ≠ 63 ∧ Memory.read prog3Recv.fb 5 = some 0x7E#8 ∧ Memory.read prog3Recv.fb 6 = none := by decide

theorem witness_StepTakesNextEventInOrder :
    (∃ t, step (withEvent waitingSend (.read 0x40000014 32)) = .next t) ∧ waitingSend.busy ≠ none ∧
    (∃ t, step (withEvent State.reset (.read 0x40000014 32)) = .next t) ∧ State.reset.busy = none ∧
    ∃ t, step (withEvent waitingSend .reset) = .next t :=
  ⟨⟨_, rfl⟩, by decide, ⟨_, rfl⟩, by decide, ⟨_, rfl⟩⟩

/-- The addresses next to the window on both sides. -/
theorem witness_AccessOutsideWindowStops : State.reset.busy = none ∧
    0x3FFFFFFF < State.reset.cfg.fxmuxBase ∧ State.reset.cfg.fxmuxBase + 0x2000 ≤ 0x40002000 ∧
    (withEvent State.reset (.read 0x3FFFFFFF 8)).bus = .read 0x3FFFFFFF 8 :: [] := by decide

/-- The last register of each table in the example configuration, after reset and after a reset event. -/
theorem witness_ResetRegisterValues : (Reg.meanCfg 1).Exists Config.example ∧
    (Reg.slotHandlers 3).Exists Config.example ∧ (Reg.rdoCtrl 0).Exists Config.example ∧
    (∃ t, t = State.resetWith Config.example) ∧
    ∃ s rest t, s.cfg = Config.example ∧ s.bus = .reset :: rest ∧ step s = .next t :=
  ⟨by decide, by decide, by decide, ⟨_, rfl⟩, withEvent waitingSend .reset, [], _, rfl, rfl, rfl⟩

/-- A command waits when the reset comes; a faulted block and a created table take another access. -/
theorem witness_ResetIsTheOnlyWayBack : (withEvent waitingSend .reset).bus = .reset :: [] ∧
    ({ prog3 with status := ⟨0x12#8, false, 0x12#8, true⟩ } : State).status.fault = true ∧
    prog3.muxState ≠ .unconfigured ∧ prog3.bus = [] ∧
    ∃ t, step ({ prog3 with status := ⟨0x12#8, false, 0x12#8, true⟩ } : State) = .next t :=
  ⟨by decide, by decide, by decide, by decide, _, rfl⟩

theorem witness_TableNeverShrinks : prog3Send.TableInv ∧ (∃ t, step prog3Send = .next t) ∧
    prog3Send.bus = [] ∧ 2 < prog3Send.muxCount.toNat := ⟨prog3Send_tableInv, ⟨_, rfl⟩, by decide, by decide⟩

theorem prog3Recv_frameInv : prog3Recv.FrameInv := ⟨by decide, by decide⟩

/-- For StepKeepsTable, StepKeepsFrameBuffer, StepKeepsInstances and StepKeepsStatusAndWait: a state that
meets every invariant and has a next step. -/
theorem witness_StepKeeps : prog3Recv.TableInv ∧ prog3Recv.FrameInv ∧ prog3Recv.EngineInv ∧ prog3Recv.MeanInv ∧
    prog3Recv.StatusInv ∧ prog3Recv.WaitInv ∧ ∃ t, step prog3Recv = .next t :=
  ⟨prog3Recv_tableInv, prog3Recv_frameInv, ⟨by decide, by decide, by decide⟩, ⟨by decide, by decide⟩,
    ⟨by decide, fun h => by simp [prog3Recv, prog3, State.reset, State.resetWith, Status.zero] at h,
      .inl (by decide), by decide⟩,
    ⟨fun i h => by simp [prog3Recv, prog3, State.reset, State.resetWith] at h,
      fun i h => by simp [prog3Recv, prog3, State.reset, State.resetWith] at h, by decide⟩, _, rfl⟩

theorem witness_ResetSatisfiesInvariant : Config.example.Legal := by decide

/-- Two bytes at the ends of the frame. -/
theorem witness_WindowsPartitionFrame : prog3.TableInv ∧ 0 < prog3.muxOffset.toNat ∧ 5 < prog3.muxOffset.toNat ∧
    2 < prog3.muxCount.toNat ∧ 0 + 1 < prog3.muxCount.toNat :=
  ⟨prog3_tableInv, by decide, by decide, by decide, by decide⟩

end Sys2Proof.Tests
end

section
/-! PROOFS. The layout of binary32 (log 13): the three fields of a pattern, and its value in each exponent
range. -/

namespace Sys2Proof.Machine

section
variable (sg : BitVec 1) (e : BitVec 8) (fr : BitVec 23)

/-- Bit 31 of a pattern is its sign. -/
theorem float_msb : (sg ++ e ++ fr).msb = (sg == 1#1) := by
  rw [BitVec.msb_append, if_neg (by decide), BitVec.msb_append, if_neg (by decide)]
  rcases BitVec.eq_zero_or_eq_one sg with rfl | rfl <;> rfl

/-- Bits 30:23 of a pattern are its exponent. -/
theorem float_exponent : (sg ++ e ++ fr).extractLsb' 23 8 = e := by
  ext i hi
  rw [BitVec.getElem_extractLsb', BitVec.getLsbD_append, if_neg (by omega), BitVec.getLsbD_append,
    if_pos (by omega), Nat.add_sub_cancel_left, BitVec.getLsbD_eq_getElem hi]

/-- Bits 22:0 of a pattern are its fraction. -/
theorem float_fraction : (sg ++ e ++ fr).extractLsb' 0 23 = fr := by
  ext i hi
  rw [BitVec.getElem_extractLsb', BitVec.getLsbD_append, if_pos (by omega), Nat.zero_add,
    BitVec.getLsbD_eq_getElem hi]

/-- A sign bit as a factor: `-1` when it is set. -/
theorem negate_if_sign (m : Int) : (if (sg == 1#1) = true then -m else m) = (-1) ^ sg.toNat * m := by
  rcases BitVec.eq_zero_or_eq_one sg with rfl | rfl <;> simp

/-- `f32Decode` in terms of the three fields. -/
theorem f32Decode_fields : f32Decode (sg ++ e ++ fr) =
    if e = 255#8 then (if fr = 0#23 then .inf (sg == 1#1) else .nan)
    else .finite ((-1) ^ sg.toNat *
      ((if e = 0#8 then fr.toNat else (2 ^ 23 + fr.toNat) * 2 ^ (e.toNat - 1) : Nat) : Int)) := by
  have he (c : BitVec 8) : e.toNat = c.toNat ↔ e = c := BitVec.toNat_inj
  have hfr : fr.toNat = (0#23).toNat ↔ fr = 0#23 := BitVec.toNat_inj
  simp only [f32Decode, float_msb, float_exponent, float_fraction, negate_if_sign]
  simp only [← he, ← hfr, BitVec.toNat_ofNat]

end

end Sys2Proof.Machine

namespace Sys2Proof.Proofs
open Sys2Proof.Machine

/-- Settles O14: each exponent range picks its branch of `f32Decode_fields`. -/
theorem binaryFloatLayout : Obligations.BinaryFloatLayout := by
  intro sg e fr
  rw [f32Decode_fields]
  refine ⟨?infinity, ?nan, ?subnormal, ?normal⟩
  case infinity =>
    rintro ⟨rfl, rfl⟩
    simp
  case nan =>
    rintro ⟨rfl, hfr⟩
    simp [hfr]
  case subnormal =>
    rintro rfl
    simp
  case normal =>
    rintro ⟨h0, h255⟩
    simp [h0, h255]

end Sys2Proof.Proofs
end

section
/-! PROOFS. A command that waits, resumed with more answers (43_multiplexer.md rule R193, log 7). Two facts
carry the proof: a dispatch that has ended does not look at answers behind those it took, and no dispatch looks
at `busy`. -/

namespace Sys2Proof.Machine

/-- More answers of external clients arrive, behind those already there. -/
def State.moreAnswers (s : State) (later : List ClientRsp) : State := s.setClients (s.clients ++ later)

@[simp] theorem moreAnswers_clients (s : State) (l : List ClientRsp) :
    (s.moreAnswers l).clients = s.clients ++ l := rfl
@[simp] theorem moreAnswers_slotAt (s : State) (l : List ClientRsp) (i : Nat) :
    (s.moreAnswers l).slotAt i = s.slotAt i := rfl

/-! ### Runs of dispatches as sequences -/

/-- Go on with `k` if everything up to here completed. -/
def Walk.andThen (w : Walk) (k : State → Walk) : Walk :=
  match w with
  | .done t => k t
  | w => w

@[simp] theorem Walk.andThen_done (t : State) (k : State → Walk) : (Walk.done t).andThen k = k t := rfl
@[simp] theorem Walk.andThen_stop (c : FaultCode) (t : State) (k : State → Walk) :
    (Walk.stop c t).andThen k = .stop c t := rfl
@[simp] theorem Walk.andThen_wait (q : Wait) (t : State) (k : State → Walk) :
    (Walk.wait q t).andThen k = .wait q t := rfl

/-- Two ways to go on from `w` agree if they agree on the state it completes with. -/
theorem Walk.andThen_congr {w : Walk} {k k' : State → Walk} (h : ∀ t, w = .done t → k t = k' t) :
    w.andThen k = w.andThen k' := by
  cases w with
  | done t => exact h t rfl
  | stop c t => rfl
  | wait q t => rfl

/-- A run is its first dispatch and then the others. -/
theorem walkSlots_succ (dispatch : Nat → State → Walk) (n i : Nat) (s : State) :
    walkSlots dispatch (n + 1) i s = (dispatch i s).andThen (walkSlots dispatch n (i + 1)) := by
  cases h : dispatch i s <;> simp [walkSlots, h]

/-- How a run goes in a changed state: where it ended, in the changed end state; where it waited, as `again`
says. -/
def Walk.carry (f : State → State) (again : Wait → State → Walk) (w : Walk) : Walk :=
  match w with
  | .done t => .done (f t)
  | .stop c t => .stop c (f t)
  | .wait q t => again q (f t)

@[simp] theorem Walk.carry_done (f : State → State) (again : Wait → State → Walk) (t : State) :
    (Walk.done t).carry f again = .done (f t) := rfl
@[simp] theorem Walk.carry_stop (f : State → State) (again : Wait → State → Walk) (c : FaultCode) (t : State) :
    (Walk.stop c t).carry f again = .stop c (f t) := rfl
@[simp] theorem Walk.carry_wait (f : State → State) (again : Wait → State → Walk) (q : Wait) (t : State) :
    (Walk.wait q t).carry f again = again q (f t) := rfl

/-- A sequence goes on in the changed state if each of its two parts does. -/
theorem Walk.andThen_carry {f : State → State} {k : State → Walk} (w : Walk)
    (hk : ∀ t, k (f t) = (k t).carry f .wait) :
    (w.carry f .wait).andThen k = (w.andThen k).carry f .wait := by
  cases w with
  | done t => exact hk t
  | stop c t => rfl
  | wait q t => rfl

/-! ### What a dispatch does not look at -/

/-- `f` changes nothing a dispatch looks at before it comes to the client's answer: at most `clients` and
`busy`. -/
structure OutsideDispatch (f : State → State) : Prop where
  cfg : ∀ s, (f s).cfg = s.cfg
  slotAt : ∀ s i, (f s).slotAt i = s.slotAt i
  rdoAt : ∀ s e, (f s).rdoAt e = s.rdoAt e
  fb : ∀ s, (f s).fb = s.fb
  setRdo : ∀ s e r, (f s).setRdo e r = f (s.setRdo e r)
  setFb : ∀ s m, (f s).setFb m = f (s.setFb m)
  issue : ∀ s q, (f s).issue q = f (s.issue q)

theorem outsideDispatch_moreAnswers (l : List ClientRsp) : OutsideDispatch (·.moreAnswers l) := by
  constructor <;> intros <;> rfl

theorem outsideDispatch_setBusy (b : Option Wait) : OutsideDispatch (·.setBusy b) := by
  constructor <;> intros <;> rfl

section
variable {f : State → State} {again : Wait → State → Walk} (hf : OutsideDispatch f)
include hf

theorem needEngine_carry (d : Slot) (s : State) (k : Walk) :
    needEngine d (f s) (k.carry f again) = (needEngine d s k).carry f again := by
  simp only [needEngine, hf.cfg, hf.rdoAt, apply_ite (Walk.carry f again), Walk.carry_stop]

theorem rdoSend_carry (d : Slot) (s : State) : rdoSend d (f s) = (rdoSend d s).carry f again := by
  simp only [rdoSend, ← needEngine_carry hf, Walk.carry_done, adv, hf.rdoAt, hf.setRdo, hf.fb, hf.setFb]

theorem rdoRecv_carry (d : Slot) (s : State) : rdoRecv d (f s) = (rdoRecv d s).carry f again := by
  unfold rdoRecv
  rw [← needEngine_carry hf, hf.fb]
  cases Memory.read s.fb d.index.toNat with
  | none => rfl
  | some hiB =>
    cases Memory.read s.fb (d.index.toNat + 1) with
    | none => rfl
    | some loB => simp only [Walk.carry_done, adv, hf.rdoAt, hf.setRdo]

/-- A send dispatch in a changed state, if the same is known of taking the client's answer. -/
theorem sendDispatch_carry {i : Nat} (htake : ∀ s, takeSendRsp i (f s) = (takeSendRsp i s).carry f again)
    (s : State) : sendDispatch i (f s) = (sendDispatch i s).carry f again := by
  simp only [sendDispatch, hf.cfg, hf.slotAt, hf.issue, htake, rdoSend_carry hf (again := again),
    apply_ite (Walk.carry f again), Walk.carry_stop]

/-- A receive dispatch in a changed state, if the same is known of taking the client's answer. -/
theorem recvDispatch_carry {i : Nat} (htake : ∀ s, takeRecvAck i (f s) = (takeRecvAck i s).carry f again)
    (s : State) : recvDispatch i (f s) = (recvDispatch i s).carry f again := by
  simp only [recvDispatch, hf.cfg, hf.slotAt, hf.fb, hf.issue, htake, rdoRecv_carry hf (again := again),
    apply_ite (Walk.carry f again), Walk.carry_stop]
  cases Memory.readBytes s.fb (s.slotAt i).index.toNat (s.slotAt i).size.toNat <;> rfl

end

/-! ### Taking an answer -/

/-- Taking an answer does not look at `busy`. -/
theorem takeSendRsp_setBusy (b : Option Wait) (i : Nat) (s : State) :
    takeSendRsp i (s.setBusy b) = (takeSendRsp i s).carry (·.setBusy b) .wait := by
  unfold takeSendRsp
  simp only [setBusy_clients]
  split
  · rw [setBusy_slotAt, apply_ite (Walk.carry _ _)]
    rfl
  · rfl

/-- Taking an acknowledgement does not look at `busy`. -/
theorem takeRecvAck_setBusy (b : Option Wait) (i : Nat) (s : State) :
    takeRecvAck i (s.setBusy b) = (takeRecvAck i s).carry (·.setBusy b) .wait := by
  unfold takeRecvAck
  simp only [setBusy_clients]
  split <;> rfl

/-- An answer that is taken is taken also when more stand behind it. -/
theorem takeSendRsp_moreAnswers (l : List ClientRsp) (i : Nat) (s : State) :
    takeSendRsp i (s.moreAnswers l) =
      (takeSendRsp i s).carry (·.moreAnswers l) (fun _ t => takeSendRsp i t) := by
  rcases takeSendRsp_cases i s with ⟨bs, rest, hc, hl, h⟩ | h <;> rw [h]
  · simp only [takeSendRsp, moreAnswers_clients, moreAnswers_slotAt, hc, hl, List.cons_append, if_true]
    rfl
  · rfl

/-- An acknowledgement that is taken is taken also when more answers stand behind it. -/
theorem takeRecvAck_moreAnswers (l : List ClientRsp) (i : Nat) (s : State) :
    takeRecvAck i (s.moreAnswers l) =
      (takeRecvAck i s).carry (·.moreAnswers l) (fun _ t => takeRecvAck i t) := by
  rcases takeRecvAck_cases i s with ⟨rest, hc, h⟩ | h <;> rw [h]
  · simp only [takeRecvAck, moreAnswers_clients, hc, List.cons_append]
    rfl
  · rfl

/-! ### Waiting runs, for sends and receives alike -/

/-- What the argument needs of a dispatch, of how it takes an answer, and of what it waits for. -/
structure ClientDispatch (dispatch take : Nat → State → Walk) (W : Nat → Wait) : Prop where
  frame : ∀ i s, DispatchFrame s (dispatch i s).state
  waitsFor : ∀ i s q t, dispatch i s = .wait q t → q = W i
  moreAnswers : ∀ l i s, dispatch i (s.moreAnswers l) =
    (dispatch i s).carry (·.moreAnswers l) (fun _ t => take i t)
  setBusy : ∀ b i s, dispatch i (s.setBusy b) = (dispatch i s).carry (·.setBusy b) .wait
  takeSetBusy : ∀ b i s, take i (s.setBusy b) = (take i s).carry (·.setBusy b) .wait

theorem sendDispatch_waitsFor (i : Nat) (s : State) (q : Wait) (t : State)
    (h : sendDispatch i s = .wait q t) : q = .sendRsp i := by
  rcases sendDispatch_cases i s with ⟨c, h2⟩ | ⟨_, _, h2⟩ | ⟨_, _, ⟨_, _, _, _, h2⟩ | h2⟩ <;>
    rw [h2] at h <;> cases h
  rfl

theorem recvDispatch_waitsFor (i : Nat) (s : State) (q : Wait) (t : State)
    (h : recvDispatch i s = .wait q t) : q = .recvAck i := by
  rcases recvDispatch_cases i s with ⟨c, h2⟩ | ⟨_, _, _, _, _, _, h2⟩ | ⟨_, _, _, _, ⟨_, _, h2⟩ | h2⟩ <;>
    rw [h2] at h <;> cases h
  rfl

theorem clientDispatch_send : ClientDispatch sendDispatch takeSendRsp .sendRsp where
  frame := sendDispatch_frame
  waitsFor := sendDispatch_waitsFor
  moreAnswers l i := sendDispatch_carry (outsideDispatch_moreAnswers l) (takeSendRsp_moreAnswers l i)
  setBusy b i := sendDispatch_carry (outsideDispatch_setBusy b) (takeSendRsp_setBusy b i)
  takeSetBusy := takeSendRsp_setBusy

theorem clientDispatch_recv : ClientDispatch recvDispatch takeRecvAck .recvAck where
  frame := recvDispatch_frame
  waitsFor := recvDispatch_waitsFor
  moreAnswers l i := recvDispatch_carry (outsideDispatch_moreAnswers l) (takeRecvAck_moreAnswers l i)
  setBusy b i := recvDispatch_carry (outsideDispatch_setBusy b) (takeRecvAck_setBusy b i)
  takeSetBusy := takeRecvAck_setBusy

/-- The dispatches that follow slot `i`. -/
def walkAfter (dispatch : Nat → State → Walk) (i : Nat) (s : State) : Walk :=
  walkSlots dispatch (s.muxCount.toNat - (i + 1)) (i + 1) s

theorem resumeSend_eq (i : Nat) (s : State) :
    resumeSend i s = endSend ((takeSendRsp i s).andThen (walkAfter sendDispatch i)) := by
  unfold resumeSend
  cases takeSendRsp i s <;> rfl

theorem resumeRecv_eq (i : Nat) (s : State) :
    resumeRecv i s = endRecv ((takeRecvAck i s).andThen (walkAfter recvDispatch i)) := by
  unfold resumeRecv
  cases takeRecvAck i s <;> rfl

namespace ClientDispatch

variable {dispatch take : Nat → State → Walk} {W : Nat → Wait} (hd : ClientDispatch dispatch take W)
include hd

theorem muxCount_of_done {i : Nat} {s t : State} (h : dispatch i s = .done t) : t.muxCount = s.muxCount := by
  have hframe : DispatchFrame s t := by simpa only [h, Walk.state_done] using hd.frame i s
  rw [hframe]

/-- A run does not look at `busy`. -/
theorem walkSlots_setBusy (b : Option Wait) (n i : Nat) (s : State) :
    walkSlots dispatch n i (s.setBusy b) = (walkSlots dispatch n i s).carry (·.setBusy b) .wait := by
  induction n generalizing i s with
  | zero => rfl
  | succ n ih =>
    rw [walkSlots_succ, walkSlots_succ, hd.setBusy]
    exact Walk.andThen_carry _ (ih (i + 1))

/-- The rest of a waiting run does not look at `busy`. -/
theorem resumed_setBusy (b : Option Wait) (i : Nat) (s : State) :
    (take i (s.setBusy b)).andThen (walkAfter dispatch i) =
      ((take i s).andThen (walkAfter dispatch i)).carry (·.setBusy b) .wait := by
  rw [hd.takeSetBusy]
  exact Walk.andThen_carry _ (fun t => hd.walkSlots_setBusy b _ _ t)

/-- A run that waits at slot `k` would, with more answers there from the start, have come to slot `k` in the
same way and gone on from there. -/
theorem walkSlots_moreAnswers {n i : Nat} {s t : State} {q : Wait} (l : List ClientRsp)
    (hn : i + n = s.muxCount.toNat) (h : walkSlots dispatch n i s = .wait q t) :
    ∃ k, q = W k ∧ walkSlots dispatch n i (s.moreAnswers l) =
      (take k (t.moreAnswers l)).andThen (walkAfter dispatch k) := by
  induction n generalizing i s with
  | zero => cases h
  | succ n ih =>
    rw [walkSlots_succ] at h
    rw [walkSlots_succ, hd.moreAnswers]
    cases hi : dispatch i s with
    | done u =>
      rw [hi] at h
      exact ih (by rw [hd.muxCount_of_done hi]; omega) h
    | stop c u => rw [hi] at h; cases h
    | wait p u =>
      rw [hi] at h
      cases h
      refine ⟨i, hd.waitsFor i s q t hi, Walk.andThen_congr fun v hv => ?_⟩
      have hcount : v.muxCount = s.muxCount :=
        hd.muxCount_of_done (s := s.moreAnswers l) (by rw [hd.moreAnswers, hi]; exact hv)
      rw [walkAfter, hcount, ← hn]
      congr 1
      omega

/-- A run that waits, resumed with more answers there while `busy` is set, goes on as the whole run with those
answers there from the start; `b` stays set until the command's end. -/
theorem resumed_eq {s t : State} {q : Wait} (l : List ClientRsp) (b : Option Wait)
    (h : walkSlots dispatch s.muxCount.toNat 0 s = .wait q t) :
    ∃ k, q = W k ∧ (take k ((t.moreAnswers l).setBusy b)).andThen (walkAfter dispatch k) =
      (walkSlots dispatch s.muxCount.toNat 0 (s.moreAnswers l)).carry (·.setBusy b) .wait := by
  obtain ⟨k, hq, hk⟩ := hd.walkSlots_moreAnswers l (Nat.zero_add _) h
  exact ⟨k, hq, by rw [hd.resumed_setBusy, hk]⟩

end ClientDispatch

/-! ### The commands -/

/-- The end of a MUX_SEND sets `busy` whatever it was. -/
theorem endSend_carry_setBusy (b : Option Wait) (w : Walk) :
    endSend (w.carry (·.setBusy b) .wait) = endSend w := by
  cases w <;> rfl

/-- The end of a MUX_RECV sets `busy` whatever it was. -/
theorem endRecv_carry_setBusy (b : Option Wait) (w : Walk) :
    endRecv (w.carry (·.setBusy b) .wait) = endRecv w := by
  cases w <;> rfl

/-- Only a run that waits ends with the block busy. -/
theorem endSend_busy {w : Walk} {t : State} (h : endSend w = .next t) (hb : t.busy ≠ none) :
    ∃ q u, w = .wait q u ∧ t = u.setBusy (some q) := by
  cases w with
  | wait q u => exact ⟨q, u, rfl, by cases h; rfl⟩
  | done u => cases h; exact absurd rfl hb
  | stop c u => cases h; exact absurd rfl hb

/-- Only a run that waits ends with the block busy. -/
theorem endRecv_busy {w : Walk} {t : State} (h : endRecv w = .next t) (hb : t.busy ≠ none) :
    ∃ q u, w = .wait q u ∧ t = u.setBusy (some q) := by
  cases w with
  | wait q u => exact ⟨q, u, rfl, by cases h; rfl⟩
  | done u => cases h; exact absurd rfl hb
  | stop c u => cases h; exact absurd rfl hb

/-- A fault leaves the block as busy as it was. -/
theorem busy_of_raise {c : FaultCode} {s t : State} (h : raise c s = .next t) : t.busy = s.busy := by
  rw [raise_next.1 h]; rfl

/-- A MUX_SEND that leaves the block busy is one whose run waits. -/
theorem execMuxSend_busy {s t : State} (hs : s.busy = none) (h : execMuxSend s = .next t)
    (ht : t.busy ≠ none) : s.muxState ≠ .unconfigured ∧
      ∃ q u, walkSlots sendDispatch s.muxCount.toNat 0 s = .wait q u ∧ t = u.setBusy (some q) := by
  rcases execMuxSend_cases s with hx | ⟨hm, hx⟩ <;> rw [hx] at h
  · exact absurd ((busy_of_raise h).trans hs) ht
  · exact ⟨hm, endSend_busy h ht⟩

/-- A MUX_RECV that leaves the block busy is one whose run waits. -/
theorem execMuxRecv_busy {s t : State} (hs : s.busy = none) (h : execMuxRecv s = .next t)
    (ht : t.busy ≠ none) : (s.muxState ≠ .unconfigured ∧
      ∃ len, s.opa = some len ∧ s.muxOffset.toNat ≤ len.toNat) ∧
      ∃ q u, walkSlots recvDispatch s.muxCount.toNat 0 s = .wait q u ∧ t = u.setBusy (some q) := by
  rcases execMuxRecv_cases s with ⟨c, hx⟩ | ⟨hm, len, ha, hl, hx⟩ <;> rw [hx] at h
  · exact absurd ((busy_of_raise h).trans hs) ht
  · exact ⟨⟨hm, len, ha, hl⟩, endRecv_busy h ht⟩

/-- MUX_SEND with a table is the run of its dispatches. -/
theorem execMuxSend_of {s : State} (hm : s.muxState ≠ .unconfigured) :
    execMuxSend s = endSend (walkSlots sendDispatch s.muxCount.toNat 0 s) := needTable_of hm

/-- MUX_RECV with a table and a frame long enough is the run of its dispatches. -/
theorem execMuxRecv_of {s : State} {len : Word} (hm : s.muxState ≠ .unconfigured) (ha : s.opa = some len)
    (hl : s.muxOffset.toNat ≤ len.toNat) :
    execMuxRecv s = endRecv (walkSlots recvDispatch s.muxCount.toNat 0 s) := by
  rw [execMuxRecv, needTable_of hm, withA_some ha, if_neg (by omega)]

/-- A MUX_SEND that waits, resumed with more answers, ends as with those answers there at once. -/
theorem resume_muxSend {s t : State} (l : List ClientRsp) (hs : s.busy = none)
    (h : execMuxSend s = .next t) (ht : t.busy ≠ none) :
    ∃ q, t.busy = some q ∧ resume q (t.moreAnswers l) = execMuxSend (s.moreAnswers l) := by
  obtain ⟨hm, q, u, hwalk, rfl⟩ := execMuxSend_busy hs h ht
  obtain ⟨k, rfl, hk⟩ := clientDispatch_send.resumed_eq l (some q) hwalk
  refine ⟨_, rfl, ?_⟩
  calc resumeSend k ((u.moreAnswers l).setBusy (some (.sendRsp k)))
      = endSend (walkSlots sendDispatch s.muxCount.toNat 0 (s.moreAnswers l)) := by
        rw [resumeSend_eq, hk, endSend_carry_setBusy]
    _ = execMuxSend (s.moreAnswers l) := (execMuxSend_of (s := s.moreAnswers l) hm).symm

/-- A MUX_RECV that waits, resumed with more answers, ends as with those answers there at once. -/
theorem resume_muxRecv {s t : State} (l : List ClientRsp) (hs : s.busy = none)
    (h : execMuxRecv s = .next t) (ht : t.busy ≠ none) :
    ∃ q, t.busy = some q ∧ resume q (t.moreAnswers l) = execMuxRecv (s.moreAnswers l) := by
  obtain ⟨⟨hm, len, ha, hl⟩, q, u, hwalk, rfl⟩ := execMuxRecv_busy hs h ht
  obtain ⟨k, rfl, hk⟩ := clientDispatch_recv.resumed_eq l (some q) hwalk
  refine ⟨_, rfl, ?_⟩
  calc resumeRecv k ((u.moreAnswers l).setBusy (some (.recvAck k)))
      = endRecv (walkSlots recvDispatch s.muxCount.toNat 0 (s.moreAnswers l)) := by
        rw [resumeRecv_eq, hk, endRecv_carry_setBusy]
    _ = execMuxRecv (s.moreAnswers l) := (execMuxRecv_of (s := s.moreAnswers l) hm ha hl).symm

/-- While a command waits, a step that takes no reset goes on with it. -/
theorem step_of_busy {s : State} {q : Wait} (hb : s.busy = some q) (hr : ∀ rest, s.bus ≠ .reset :: rest) :
    step s = resume q s := by
  rcases step_cases s with ⟨rest, h, _⟩ | ⟨w, hw, _, h⟩ | ⟨_, _, hn, _⟩ | ⟨hn, _⟩
  · exact absurd h (hr rest)
  · cases hb.symm.trans hw; exact h
  · cases hb.symm.trans hn
  · cases hb.symm.trans hn

/-- MUX_SEND takes no event. -/
theorem execMuxSend_bus {s t : State} (h : execMuxSend s = .next t) : t.bus = s.bus := by
  rcases execMuxSend_cases s with hx | ⟨_, hx⟩ <;> rw [hx] at h
  · rw [raise_next.1 h]; rfl
  · rw [endSend_frame (walkSlots_frame sendDispatch_frame _ _ _) h]

/-- MUX_RECV takes no event. -/
theorem execMuxRecv_bus {s t : State} (h : execMuxRecv s = .next t) : t.bus = s.bus := by
  rcases execMuxRecv_cases s with ⟨c, hx⟩ | ⟨_, _, _, _, hx⟩ <;> rw [hx] at h
  · rw [raise_next.1 h]; rfl
  · rw [endRecv_frame (walkSlots_frame recvDispatch_frame _ _ _) h]

end Sys2Proof.Machine

namespace Sys2Proof.Proofs
open Sys2Proof.Machine

/-- Settles O42: the step resumes the command at the slot it waits at, and the run with all answers there at
once comes to that slot in the same way (`ClientDispatch.walkSlots_moreAnswers`). -/
theorem waitingThenAnswersEqualsAtOnce : Obligations.WaitingThenAnswersEqualsAtOnce := by
  rintro i s t later (rfl | rfl) hs hr h ht
  · obtain ⟨q, hq, hresume⟩ := resume_muxSend later hs h ht
    have hbus : t.bus = s.bus := execMuxSend_bus h
    exact (step_of_busy (s := t.moreAnswers later) hq (hbus ▸ hr)).trans hresume
  · obtain ⟨q, hq, hresume⟩ := resume_muxRecv later hs h ht
    have hbus : t.bus = s.bus := execMuxRecv_bus h
    exact (step_of_busy (s := t.moreAnswers later) hq (hbus ▸ hr)).trans hresume

end Sys2Proof.Proofs
end

section
/-! PROOFS. The slot table (10_state.md section 4): the sums of sizes its invariant speaks of, the invariant
at reset and kept by every step, and the windows of the slots. -/

namespace Sys2Proof.Machine

/-! ### Sums of sizes -/

@[simp] theorem frameLen_zero (slots : List Slot) : frameLen slots 0 = 0 := rfl

/-- One more descriptor adds its size. -/
theorem frameLen_succ (slots : List Slot) (n : Nat) :
    frameLen slots (n + 1) = frameLen slots n + (slots.getD n Slot.zero).size.toNat := by
  rw [frameLen, List.take_add_one, List.map_append, List.sum_append, List.getD_eq_getElem?_getD, frameLen]
  cases slots[n]? <;> rfl

/-- The sum of the first `n` sizes does not look at descriptor `n`. -/
theorem frameLen_set (slots : List Slot) (d : Slot) {i n : Nat} (h : i ≤ n) :
    frameLen (slots.set n d) i = frameLen slots i := by
  rw [frameLen, List.take_set_of_le h, frameLen]

theorem frameLen_mono (slots : List Slot) {i j : Nat} (h : i ≤ j) : frameLen slots i ≤ frameLen slots j :=
  monotone_nat_of_le_succ (fun n => by rw [frameLen_succ]; omega) h

/-- Every byte below the sum of the first `n` sizes lies in the window of one of them. -/
theorem exists_window (slots : List Slot) {n a : Nat} (h : a < frameLen slots n) :
    ∃ i, i < n ∧ frameLen slots i ≤ a ∧ a < frameLen slots (i + 1) := by
  induction n with
  | zero => simp at h
  | succ n ih =>
    rcases Nat.lt_or_ge a (frameLen slots n) with ha | ha
    · obtain ⟨i, hi, hw⟩ := ih ha
      exact ⟨i, by omega, hw⟩
    · exact ⟨n, by omega, ha, h⟩

/-- Two windows with a byte in common are not one before the other. -/
theorem window_le (slots : List Slot) {i j a : Nat} (hi : frameLen slots i ≤ a)
    (hj : a < frameLen slots (j + 1)) : i ≤ j := by
  by_contra h
  have := frameLen_mono slots (show j + 1 ≤ i by omega)
  omega

/-! ### The invariant -/

theorem TableEq.slotAt {s t : State} (h : TableEq s t) (i : Nat) : t.slotAt i = s.slotAt i := by
  obtain ⟨_, _, _, _, _, hslots⟩ := h
  rw [State.slotAt, hslots, State.slotAt]

/-- The invariant is about the configuration and the table only. -/
theorem TableEq.tableInv {s t : State} (h : TableEq s t) (hs : s.TableInv) : t.TableInv := by
  have hslot := h.slotAt
  obtain ⟨hcfg, hstate, hcount, hoffset, hmaxbuf, hslots⟩ := h
  constructor <;> simp only [hcfg, hstate, hcount, hoffset, hmaxbuf, hslots, hslot]
  · exact hs.legal
  · exact hs.sized
  · exact hs.count_le
  · exact hs.offset_eq
  · exact hs.offset_le
  · exact hs.maxbuf_le
  · exact hs.index_eq
  · exact hs.unregistered
  · exact hs.built_iff
  · exact hs.no_table

theorem resetWith_slotAt (c : Config) (i : Nat) : (State.resetWith c).slotAt i = Slot.zero := by
  simp [State.slotAt, List.getElem?_replicate, apply_ite (Option.getD · Slot.zero)]

/-- The table after reset (10_state.md rule R37). -/
theorem resetWith_tableInv {c : Config} (hc : c.Legal) : (State.resetWith c).TableInv where
  legal := hc
  sized := List.length_replicate
  count_le := Nat.zero_le _
  offset_eq := rfl
  offset_le := Nat.le_refl _
  maxbuf_le := Nat.zero_le _
  index_eq _ hi := absurd hi (Nat.not_lt_zero _)
  unregistered i _ := resetWith_slotAt c i
  built_iff := by simp
  no_table _ := rfl

/-- A platform reset leaves the table of the reset state. -/
theorem platformReset_tableEq (s : State) : TableEq (State.resetWith s.cfg) s.platformReset := by
  simp [TableEq]

/-- Without a table no slot is registered. -/
theorem State.TableInv.count_of_unconfigured {s : State} (hs : s.TableInv) (h : s.muxState = .unconfigured) :
    s.muxCount.toNat = 0 := by
  by_contra hcount
  have hbuilt : s.muxState = .built := hs.built_iff.2 (Nat.one_le_iff_ne_zero.2 hcount)
  cases h.symm.trans hbuilt

/-- MUX_INIT makes an empty table of a legal size (43_multiplexer.md rule R181). -/
theorem createTable_tableInv {s : State} {a : Word} (hs : s.TableInv) (hstate : s.muxState = .unconfigured)
    (ha : a.toNat ≤ s.cfg.fbBytes) : (s.createTable (a.setWidth 16)).TableInv where
  legal := hs.legal
  sized := hs.sized
  count_le := Nat.zero_le _
  offset_eq := rfl
  offset_le := Nat.zero_le _
  maxbuf_le := by
    obtain ⟨_, ⟨_, hfb⟩, _⟩ := hs.legal
    simp only [createTable_muxMaxbuf, createTable_cfg, BitVec.toNat_setWidth]
    omega
  index_eq _ hi := absurd hi (Nat.not_lt_zero _)
  unregistered i _ := hs.unregistered i (by rw [hs.count_of_unconfigured hstate]; omega)
  built_iff := by simp
  no_table := by simp

/-- MUX_COUNT counts up without wrapping while there is room. -/
theorem appendSlot_count {s : State} (hs : s.TableInv) (d : Slot)
    (hroom : s.muxCount.toNat ≠ s.cfg.muxMaxSlots) :
    (s.appendSlot d).muxCount.toNat = s.muxCount.toNat + 1 := by
  have hlt := Nat.lt_of_le_of_ne hs.count_le hroom
  obtain ⟨⟨_, hmax⟩, _⟩ := hs.legal
  rw [appendSlot_muxCount, BitVec.toNat_add_of_lt (by simp; omega)]
  rfl

/-- MUX_OFFSET grows by the size without wrapping while it fits. -/
theorem appendSlot_offset {s : State} {d : Slot} (hs : s.TableInv)
    (hfits : s.muxOffset.toNat + d.size.toNat ≤ s.muxMaxbuf.toNat) :
    (s.appendSlot d).muxOffset.toNat = s.muxOffset.toNat + d.size.toNat := by
  have hle := hs.maxbuf_le
  obtain ⟨_, ⟨_, hfb⟩, _⟩ := hs.legal
  rw [appendSlot_muxOffset, BitVec.toNat_add_of_lt (by omega)]

/-- MUX_ADD of a slot that fits, at the end of the frame, keeps the table (43_multiplexer.md rules R183,
R184). -/
theorem appendSlot_tableInv {s : State} {d : Slot} (hs : s.TableInv)
    (hroom : s.muxCount.toNat ≠ s.cfg.muxMaxSlots)
    (hfits : s.muxOffset.toNat + d.size.toNat ≤ s.muxMaxbuf.toNat) (hindex : d.index = s.muxOffset) :
    (s.appendSlot d).TableInv := by
  have hlt : s.muxCount.toNat < s.cfg.muxMaxSlots := Nat.lt_of_le_of_ne hs.count_le hroom
  have hcount := appendSlot_count hs d hroom
  have hoffset := appendSlot_offset hs hfits
  have hnew : (s.appendSlot d).slotAt s.muxCount.toNat = d := appendSlot_slotAt_new s d (hs.sized ▸ hlt)
  constructor <;> simp only [hcount, hoffset, appendSlot_cfg, appendSlot_muxMaxbuf, appendSlot_muxState,
    appendSlot_slots]
  · exact hs.legal
  · rw [List.length_set, hs.sized]
  · exact hlt
  · rw [frameLen_succ, frameLen_set _ _ (Nat.le_refl _), ← hs.offset_eq]
    exact congrArg (_ + ·.size.toNat) hnew.symm
  · exact hfits
  · exact hs.maxbuf_le
  · intro i hi
    rw [frameLen_set _ _ (Nat.le_of_lt_succ hi)]
    rcases Nat.lt_succ_iff_lt_or_eq.1 hi with hlt | rfl
    · rw [appendSlot_slotAt_ne _ _ _ (Nat.ne_of_lt hlt), hs.index_eq i hlt]
    · rw [hnew, hindex, hs.offset_eq]
  · intro i hi
    rw [appendSlot_slotAt_ne _ _ _ (by omega), hs.unregistered i (by omega)]
  · simp
  · simp

end Sys2Proof.Machine

namespace Sys2Proof.Proofs
open Sys2Proof.Machine

/-- Settles O54: a step resets the table, leaves it, creates it, or appends a slot that fits
(`step_table`). -/
theorem stepKeepsTable : Obligations.StepKeepsTable := by
  intro s t hs hstep
  rcases step_table hstep with ⟨rest, _, rfl⟩ |
    ⟨_, hsame | ⟨a, ha, hstate, hinit⟩ | ⟨a, b, _, hroom, hfits, hadd⟩⟩
  · exact (platformReset_tableEq _).tableInv (resetWith_tableInv hs.legal)
  · exact hsame.tableInv hs
  · exact hinit.tableInv (createTable_tableInv hs hstate ha)
  · exact hadd.tableInv (appendSlot_tableInv hs hroom hfits rfl)

/-- Settles O53: of the changes of `step_table`, MUX_INIT finds no slot registered, and MUX_ADD writes none
that is. -/
theorem tableNeverShrinks : Obligations.TableNeverShrinks := by
  intro s t hs hstep hreset
  rcases step_table hstep with ⟨rest, hbus, _⟩ |
    ⟨_, hsame | ⟨a, _, hstate, hinit⟩ | ⟨a, b, hstate, hroom, hfits, hadd⟩⟩
  · exact absurd hbus (hreset rest)
  · have hslot := hsame.slotAt
    obtain ⟨_, hstate, hcount, hoffset, hmaxbuf, _⟩ := hsame
    rw [hstate, hcount, hoffset, hmaxbuf]
    exact ⟨Nat.le_refl _, Nat.le_refl _, fun h => ⟨h, rfl⟩, fun i _ => hslot i⟩
  · have hzero : s.muxCount.toNat = 0 := hs.count_of_unconfigured hstate
    have hoffset := hs.offset_eq
    rw [hzero, frameLen_zero] at hoffset
    rw [hzero, hoffset]
    exact ⟨Nat.zero_le _, Nat.zero_le _, fun h => absurd hstate h, fun i hi => absurd hi (Nat.not_lt_zero _)⟩
  · have hslot := hadd.slotAt
    obtain ⟨_, hbuilt, hcount, hoffset, hmaxbuf, _⟩ := hadd
    rw [hbuilt, hcount, hoffset, hmaxbuf, appendSlot_count hs _ hroom, appendSlot_offset hs hfits]
    refine ⟨Nat.le_succ _, Nat.le_add_right _ _, fun _ => ⟨by simp, rfl⟩, fun i hi => ?_⟩
    rw [hslot, appendSlot_slotAt_ne _ _ _ (Nat.ne_of_lt hi)]

/-- Settles O59: the INDEX of each slot is the sum of the sizes before it, so its window is the stretch that
`frameLen` grows by at that slot. -/
theorem windowsPartitionFrame : Obligations.WindowsPartitionFrame := by
  intro s hs
  have hend (i : Nat) (hi : i < s.muxCount.toNat) :
      (s.slotAt i).index.toNat + (s.slotAt i).size.toNat = frameLen s.slots (i + 1) := by
    rw [hs.index_eq i hi, frameLen_succ, State.slotAt]
  refine ⟨?cover, ?disjoint, ?first, ?next⟩
  case cover =>
    intro a ha
    rw [hs.offset_eq] at ha
    obtain ⟨i, hi, hlo, hhi⟩ := exists_window s.slots ha
    exact ⟨i, hi, by rwa [hs.index_eq i hi], by rwa [hend i hi]⟩
  case disjoint =>
    intro i j a hi hj hilo hihi hjlo hjhi
    rw [hend i hi] at hihi
    rw [hend j hj] at hjhi
    rw [hs.index_eq i hi] at hilo
    rw [hs.index_eq j hj] at hjlo
    refine ⟨Nat.le_antisymm (window_le _ hilo hjhi) (window_le _ hjlo hihi), ?_⟩
    rw [hs.offset_eq]
    exact Nat.lt_of_lt_of_le hihi (frameLen_mono _ hi)
  case first =>
    intro h0
    exact BitVec.eq_of_toNat_eq (hs.index_eq 0 h0)
  case next =>
    intro i hi
    rw [hs.index_eq (i + 1) hi, hend i (by omega)]

end Sys2Proof.Proofs
end

section
/-! PROOFS. What a command can do to each piece of the state, said once for all 22 (30_encoding.md rule R88,
60_exceptions.md rules R211, R214), and what no command writes. -/

namespace Sys2Proof.Machine

/-! ### Commands without dispatches -/

/-- The commands of the fixed-point unit (40_fixed_point.md). -/
def Instr.isFxp (i : Instr) : Bool :=
  match i with
  | .fxpInit | .fxpF2q _ | .fxpQ2f _ | .fxpI2q _ | .fxpQ2i _ => true
  | .fxpAdd | .fxpSub | .fxpMul _ | .fxpDiv _ | .fxpOne _ => true
  | _ => false

/-- `CommandEffect s i o d u`: command `i` can complete from `s` with outcome `o` and DEFAULTED `d`, and
leaves `u` but for STATUS. The values written are left open, but for what makes an engine or an accumulator
well formed. -/
inductive CommandEffect (s : State) : Instr → StatusOutcome → Bool → State → Prop where
  | fxp {i : Instr} (hi : Instr.isFxp i = true) (d : Bool) (v : Word) : CommandEffect s i .ok d (s.setRes v)
  | meanInit (f : Fmt) (m : BitVec 8) {a : Mean} (ha : a.valid = true) :
      CommandEffect s (.meanInit f m) .ok false (s.setMean m.toNat a)
  | meanAdd (m : BitVec 8) {a : Mean} (ha : a.valid = true) (lo hi : Word) :
      CommandEffect s (.meanAdd m) .ok false (((s.setMean m.toNat a).setRes lo).setResh hi)
  | meanReset (m : BitVec 8) {a : Mean} (ha : a.valid = true) :
      CommandEffect s (.meanReset m) .ok false (s.setMean m.toNat a)
  | meanCalc (m : BitVec 8) (v : Word) : CommandEffect s (.meanCalc m) .ok false (s.setRes v)
  | muxInit (mb : Half) : CommandEffect s .muxInit .ok false (s.createTable mb)
  | muxAddRefused (o : StatusOutcome) : CommandEffect s .muxAdd o false s
  | muxAdd (d : Slot) : CommandEffect s .muxAdd .ok false (s.appendSlot d)
  | rdoInit (e : BitVec 8) {r : Rdo} (hv : r.valid = true) (hr : r.rollover ≠ 0#16) :
      CommandEffect s (.rdoInit e) .ok false (s.setRdo e.toNat r)
  | rdoAdvance (e : BitVec 8) (hv : (s.rdoAt e.toNat).valid = true) :
      CommandEffect s (.rdoAdvance e) .ok false (adv e.toNat s)
  | rdoGet (e : BitVec 8) (v : Word) : CommandEffect s (.rdoGet e) .ok false (s.setRes v)
  | rdoEnable (e : BitVec 8) (hv : (s.rdoAt e.toNat).valid = true) (b : Bool) :
      CommandEffect s (.rdoEnable e) .ok false (s.setRdo e.toNat { s.rdoAt e.toNat with enabled := b })

/-- Only OK goes with DEFAULTED (60_exceptions.md rule R211). -/
theorem CommandEffect.ok_of_defaulted {s u : State} {i : Instr} {o : StatusOutcome} {d : Bool}
    (h : CommandEffect s i o d u) (hd : d = true) : o = .ok := by
  cases h with
  | muxAddRefused o => cases hd
  | _ => rfl

/-- No completed command has changed STATUS before its end. -/
theorem CommandEffect.status {s u : State} {i : Instr} {o : StatusOutcome} {d : Bool}
    (h : CommandEffect s i o d u) : u.status = s.status := by
  cases h <;> rfl

/-- Only MUX_SEND and MUX_RECV wait (43_multiplexer.md rule R193). -/
theorem CommandEffect.busy {s u : State} {i : Instr} {o : StatusOutcome} {d : Bool}
    (h : CommandEffect s i o d u) : u.busy = s.busy := by
  cases h <;> rfl

/-- Weakening what is said of the effect. -/
theorem RaisesOr.mono {r : Result} {s : State} {e e' : StatusOutcome → Bool → State → Prop}
    (h : RaisesOr r s e) (he : ∀ o d u, e o d u → e' o d u) : RaisesOr r s e' := by
  rcases h with ⟨c, h⟩ | ⟨o, d, u, hu, h⟩
  · exact .inl ⟨c, h⟩
  · exact .inr ⟨o, d, u, he o d u hu, h⟩

/-- A command without dispatches faults with nothing else changed, or has its effect. -/
theorem exec_raisesOr {i : Instr} (s : State) (hsend : i ≠ .muxSend) (hrecv : i ≠ .muxRecv) :
    RaisesOr (exec i s) s (CommandEffect s i) := by
  cases i with
  | muxSend => exact absurd rfl hsend
  | muxRecv => exact absurd rfl hrecv
  | fxpInit | fxpF2q | fxpQ2f | fxpI2q | fxpQ2i | fxpAdd | fxpSub | fxpMul | fxpDiv | fxpOne =>
    refine (execFxp_cases _ s (by simp)).mono ?_
    rintro o d u ⟨rfl, v, rfl⟩
    exact .fxp rfl d v
  | meanInit f m =>
    refine (execMeanInit_cases f m s).mono ?_
    rintro o d u ⟨rfl, rfl, _, _, a, _, rfl⟩
    exact .meanInit f m rfl
  | meanAdd m =>
    refine (execMeanAdd_cases m s).mono ?_
    rintro o d u ⟨rfl, rfl, _, hv, v, _, rfl⟩
    exact .meanAdd m (a := meanAdd _ v) hv _ _
  | meanReset m =>
    refine (execMeanReset_cases m s).mono ?_
    rintro o d u ⟨rfl, rfl, _, hv, rfl⟩
    exact .meanReset m hv
  | meanCalc m =>
    refine (execMeanCalc_cases m s).mono ?_
    rintro o d u ⟨rfl, rfl, _, _, ov, _, _, rfl⟩
    exact .meanCalc m _
  | muxInit =>
    refine (execMuxInit_cases s).mono ?_
    rintro o d u ⟨rfl, rfl, _, a, _, _, rfl⟩
    exact .muxInit _
  | muxAdd =>
    refine (execMuxAdd_cases s).mono ?_
    rintro o d u ⟨rfl, _, a, b, _, _, ⟨_, rfl⟩ | ⟨rfl, _, _, rfl⟩⟩
    · exact .muxAddRefused o
    · exact .muxAdd _
  | rdoInit e =>
    refine (execRdoInit_cases e s).mono ?_
    rintro o d u ⟨rfl, rfl, _, r, hr, rfl⟩
    exact .rdoInit e rfl hr
  | rdoAdvance e =>
    refine (execRdoAdvance_cases e s).mono ?_
    rintro o d u ⟨rfl, rfl, _, hv, rfl⟩
    exact .rdoAdvance e hv
  | rdoGet e =>
    refine (execRdoGet_cases e s).mono ?_
    rintro o d u ⟨rfl, rfl, _, _, rfl⟩
    exact .rdoGet e _
  | rdoEnable e =>
    refine (execRdoEnable_cases e s).mono ?_
    rintro o d u ⟨rfl, rfl, _, hv, b, rfl⟩
    exact .rdoEnable e hv b

/-! ### All commands -/

/-- Every way a command ends: a fault before it did anything, its effect, or the end of a run of
dispatches. -/
theorem exec_next {i : Instr} {s t : State} (h : exec i s = .next t) :
    (∃ c, t = s.setStatus (s.status.commandFault c)) ∨
    (∃ o d u, CommandEffect s i o d u ∧ t = u.setStatus (u.status.complete o d)) ∨
    (i = .muxSend ∧ endSend (walkSlots sendDispatch s.muxCount.toNat 0 s) = .next t) ∨
    (i = .muxRecv ∧ endRecv (walkSlots recvDispatch s.muxCount.toNat 0 s) = .next t) := by
  by_cases hsend : i = .muxSend
  · subst hsend
    rcases execMuxSend_cases s with hx | ⟨_, hx⟩
    · exact .inl ⟨_, raise_next.1 (hx.symm.trans h)⟩
    · exact .inr (.inr (.inl ⟨rfl, hx.symm.trans h⟩))
  by_cases hrecv : i = .muxRecv
  · subst hrecv
    rcases execMuxRecv_cases s with ⟨c, hx⟩ | ⟨_, _, _, _, hx⟩
    · exact .inl ⟨c, raise_next.1 (hx.symm.trans h)⟩
    · exact .inr (.inr (.inr ⟨rfl, hx.symm.trans h⟩))
  rcases (exec_raisesOr s hsend hrecv).next h with hfault | heffect
  · exact .inl hfault
  · exact .inr (.inl heffect)

/-! ### Outcome codes -/

/-- A status outcome's code is at most 2 (60_exceptions.md rule R212). -/
theorem outcome_byte_le (o : StatusOutcome) : o.byte.toNat ≤ 2 := by
  cases o <;> decide

/-- A fault's code is at least 0x10 (60_exceptions.md rule R212). -/
theorem fault_byte_ge (c : FaultCode) : 0x10 ≤ c.byte.toNat := by
  cases c <;> decide

/-- No code is both (60_exceptions.md rule R212). -/
theorem outcome_byte_ne (o : StatusOutcome) (c : FaultCode) : o.byte ≠ c.byte := by
  intro h
  have ho := outcome_byte_le o
  have hc := fault_byte_ge c
  rw [h] at ho
  omega

/-! ### What no command writes -/

/-- A MUX_SEND that does not complete has not written RES. -/
theorem endSend_res {s t : State} {w : Walk} {c : FaultCode} (hw : DispatchFrame s w.state)
    (h : endSend w = .next t) (hc : t.status.code = c.byte) : t.res = s.res := by
  have hres : w.state.res = s.res := by rw [hw]
  rcases endSend_cases w with ⟨u, rfl, hx⟩ | ⟨c', u, rfl, hx⟩ | ⟨q, u, rfl, hx⟩ <;> rw [hx] at h
  · rw [complete_next.1 h] at hc
    exact absurd hc (outcome_byte_ne .ok c)
  · rw [raise_next.1 h]
    exact hres
  · cases h
    exact hres

end Sys2Proof.Machine

namespace Sys2Proof.Proofs
open Sys2Proof.Machine

/-- Settles O10: a fault changes STATUS only, an effect is one of `CommandEffect`, and the dispatches of
MUX_SEND and MUX_RECV keep all but what `endSend_frame` and `endRecv_frame` say. -/
theorem commandsWriteOnlyTheirState : Obligations.CommandsWriteOnlyTheirState := by
  intro i s t h
  rcases exec_next h with ⟨c, rfl⟩ | ⟨o, d, u, heffect, rfl⟩ | ⟨rfl, hend⟩ | ⟨rfl, hend⟩
  · simp
  · have hcode (c : FaultCode) : o.byte ≠ c.byte := outcome_byte_ne o c
    cases heffect with
    | fxp hi d v => cases i <;> simp [hcode, Instr.isFxp] at hi ⊢
    | _ => simp [hcode, adv]
  · have hrun : DispatchFrame s (walkSlots sendDispatch s.muxCount.toNat 0 s).state :=
      walkSlots_frame sendDispatch_frame _ _ _
    have hres (c : FaultCode) (hc : t.status.code = c.byte) : t.res = s.res := endSend_res hrun hend hc
    rw [endSend_frame hrun hend]
    simpa using hres
  · rw [endRecv_frame (walkSlots_frame recvDispatch_frame _ _ _) hend, walkSlots_recv_fb]
    simp

end Sys2Proof.Proofs
end

section
/-! PROOFS. What every run of dispatches keeps and where it can wait (43_multiplexer.md section 3), for the
runs of MUX_SEND and MUX_RECV and for those that go on after a wait; and how such a run ends the command. -/

namespace Sys2Proof.Machine

/-! ### Engines -/

/-- The invariant is about the configuration and the engines only. -/
theorem State.EngineInv.congr {s t : State} (hs : s.EngineInv) (hcfg : t.cfg = s.cfg) (hrdo : t.rdo = s.rdo) :
    t.EngineInv where
  sized := by rw [hcfg, hrdo, hs.sized]
  rollover := by rw [hrdo]; exact hs.rollover
  invalid := by rw [hrdo]; exact hs.invalid

/-- Storing a valid engine with a rollover keeps the invariant. -/
theorem State.EngineInv.setRdo {s : State} (hs : s.EngineInv) (e : Nat) {r : Rdo} (hv : r.valid = true)
    (hr : r.rollover ≠ 0#16) : (s.setRdo e r).EngineInv where
  sized := by rw [setRdo_rdo, List.length_set, setRdo_cfg, hs.sized]
  rollover x hx hxv := by
    rcases List.mem_or_eq_of_mem_set hx with hold | rfl
    · exact hs.rollover x hold hxv
    · exact hr
  invalid x hx hxv := by
    rcases List.mem_or_eq_of_mem_set hx with hold | rfl
    · exact hs.invalid x hold hxv
    · rw [hv] at hxv
      cases hxv

/-- A valid engine has a rollover. -/
theorem State.EngineInv.rollover_at {s : State} (hs : s.EngineInv) {e : Nat} (hv : (s.rdoAt e).valid = true) :
    (s.rdoAt e).rollover ≠ 0#16 := by
  have hat : s.rdoAt e = s.rdo[e]'(lt_of_rdoAt_valid hv) := List.getD_eq_getElem _ _ _
  exact hs.rollover _ (hat ▸ List.getElem_mem _) hv

/-- A valid engine can be stored back with another offset or ENABLED. -/
theorem State.EngineInv.update {s : State} (hs : s.EngineInv) {e : Nat} (hv : (s.rdoAt e).valid = true)
    (o : Half) (b : Bool) : (s.setRdo e { s.rdoAt e with offset := o, enabled := b }).EngineInv :=
  hs.setRdo e hv (hs.rollover_at hv)

/-- A send dispatch advances a valid engine, if it changes one at all. -/
theorem sendDispatch_engineInv (i : Nat) {s : State} (hs : s.EngineInv) :
    (sendDispatch i s).state.EngineInv := by
  rcases sendDispatch_cases i s with ⟨c, h⟩ | ⟨_, ⟨_, hv, _⟩, h⟩ | ⟨_, _, ⟨_, _, _, _, h⟩ | h⟩ <;> rw [h]
  · exact hs
  · exact (hs.update hv _ _).congr rfl rfl
  · exact hs.congr rfl rfl
  · exact hs.congr rfl rfl

/-- A receive dispatch stores an offset in a valid engine, if it changes one at all. -/
theorem recvDispatch_engineInv (i : Nat) {s : State} (hs : s.EngineInv) :
    (recvDispatch i s).state.EngineInv := by
  rcases recvDispatch_cases i s with ⟨c, h⟩ | ⟨_, _, _, ⟨_, hv, _⟩, _, _, h⟩ | ⟨_, _, _, _, ⟨_, _, h⟩ | h⟩ <;>
    rw [h]
  · exact hs
  · exact hs.update hv _ _
  · exact hs.congr rfl rfl
  · exact hs.congr rfl rfl

/-! ### Runs -/

/-- The wait is at a registered slot whose handler is an external port (43_multiplexer.md rule R193). -/
def Wait.Registered (q : Wait) (s : State) : Prop :=
  match q with
  | .sendRsp i => i < s.muxCount.toNat ∧ isExternal s.cfg (s.slotAt i).send ∧ (s.slotAt i).send ≠ 1#8
  | .recvAck i => i < s.muxCount.toNat ∧ isExternal s.cfg (s.slotAt i).recv ∧ (s.slotAt i).recv ≠ 1#8

theorem TableEq.registered {s t : State} (h : TableEq s t) {q : Wait} : q.Registered t ↔ q.Registered s := by
  have hslot := h.slotAt
  obtain ⟨hcfg, _, hcount, _⟩ := h
  cases q <;> simp only [Wait.Registered, hcfg, hcount, hslot]

theorem DispatchFrame.tableEq {s t : State} (h : DispatchFrame s t) : TableEq s t := by
  rw [h]
  simp [TableEq]

/-- A run of dispatches from `s` that goes as `w`: it keeps all but what dispatches write and keeps the
engines well formed, and if it waits, then where the command waited already or at an external client's
slot. -/
structure DispatchRun (s : State) (w : Walk) : Prop where
  frame : DispatchFrame s w.state
  engines : s.EngineInv → w.state.EngineInv
  waits : ∀ q u, w = .wait q u → s.busy = some q ∨ q.Registered s

theorem DispatchRun.done (s : State) : DispatchRun s (.done s) where
  frame := .refl s
  engines hs := hs
  waits _ _ h := by cases h

/-- A run that goes on after its first part is a run. -/
theorem DispatchRun.andThen {s : State} {w : Walk} {k : State → Walk} (hw : DispatchRun s w)
    (hk : ∀ t, w = .done t → DispatchRun t (k t)) : DispatchRun s (w.andThen k) := by
  cases w with
  | stop c t => exact hw
  | wait q t => exact hw
  | done t =>
    have hkt := hk t rfl
    have hframe : DispatchFrame s t := hw.frame
    refine ⟨hframe.trans hkt.frame, fun hs => hkt.engines (hw.engines hs), fun q u hq => ?_⟩
    have hbusy : t.busy = s.busy := by rw [hframe]
    rw [← hframe.tableEq.registered, ← hbusy]
    exact hkt.waits q u hq

theorem sendDispatch_run {i : Nat} {s : State} (hi : i < s.muxCount.toNat) :
    DispatchRun s (sendDispatch i s) where
  frame := sendDispatch_frame i s
  engines := sendDispatch_engineInv i
  waits q u hq := by
    rcases sendDispatch_cases i s with ⟨c, h⟩ | ⟨_, _, h⟩ | ⟨hne, hext, ⟨_, _, _, _, h⟩ | h⟩ <;>
      cases h.symm.trans hq
    exact .inr ⟨hi, hext, hne⟩

theorem recvDispatch_run {i : Nat} {s : State} (hi : i < s.muxCount.toNat) :
    DispatchRun s (recvDispatch i s) where
  frame := recvDispatch_frame i s
  engines := recvDispatch_engineInv i
  waits q u hq := by
    rcases recvDispatch_cases i s with ⟨c, h⟩ | ⟨_, _, _, _, _, _, h⟩ | ⟨hne, hext, _, _, ⟨_, _, h⟩ | h⟩ <;>
      cases h.symm.trans hq
    exact .inr ⟨hi, hext, hne⟩

/-- Dispatches at registered slots, one after another, are a run. -/
theorem walkSlots_run {dispatch : Nat → State → Walk}
    (hd : ∀ {i s}, i < s.muxCount.toNat → DispatchRun s (dispatch i s)) (n i : Nat) (s : State)
    (hn : n ≤ s.muxCount.toNat - i) : DispatchRun s (walkSlots dispatch n i s) := by
  induction n generalizing i s with
  | zero => exact .done s
  | succ n ih =>
    have hi := hd (i := i) (s := s) (by omega)
    rw [walkSlots_succ]
    refine hi.andThen fun t ht => ih (i + 1) t ?_
    have hframe : DispatchFrame s t := by simpa only [ht, Walk.state_done] using hi.frame
    have hcount : t.muxCount = s.muxCount := by rw [hframe]
    rw [hcount]
    omega

/-- A waiting command goes on as a run. -/
theorem resume_run {q : Wait} {s : State} (hb : s.busy = some q) :
    ∃ w, DispatchRun s w ∧ (resume q s = endSend w ∨ resume q s = endRecv w) := by
  have hstay : DispatchRun s (.wait q s) :=
    ⟨.refl s, fun hs => hs, fun p u hp => .inl (by cases hp; exact hb)⟩
  cases q with
  | sendRsp i =>
    refine ⟨_, DispatchRun.andThen ?_ fun t _ => walkSlots_run sendDispatch_run _ _ t (Nat.le_refl _),
      .inl (resumeSend_eq i s)⟩
    rcases takeSendRsp_cases i s with ⟨bs, rest, _, _, h⟩ | h <;> rw [h]
    · exact ⟨rfl, fun hs => hs.congr rfl rfl, fun _ _ hq => by cases hq⟩
    · exact hstay
  | recvAck i =>
    refine ⟨_, DispatchRun.andThen ?_ fun t _ => walkSlots_run recvDispatch_run _ _ t (Nat.le_refl _),
      .inr (resumeRecv_eq i s)⟩
    rcases takeRecvAck_cases i s with ⟨rest, _, h⟩ | h <;> rw [h]
    · exact ⟨rfl, fun hs => hs.congr rfl rfl, fun _ _ hq => by cases hq⟩
    · exact hstay

/-! ### STATUS -/

/-- What a step other than a reset can make of STATUS (60_exceptions.md rules R211, R214). -/
inductive StatusChange (st : Status) : Status → Prop where
  | same : StatusChange st st
  | completed (o : StatusOutcome) (d : Bool) (hd : d = true → o = .ok) : StatusChange st (st.complete o d)
  | raised (c : FaultCode) : StatusChange st (st.commandFault c)
  | recorded (c : FaultCode) : StatusChange st (st.record c)

/-- Recording a fault keeps FCODE a fault's code. -/
theorem record_fcode_isFault (st : Status) (c : FaultCode)
    (h : st.fault = true → ∃ c' : FaultCode, st.fcode = c'.byte) :
    ∃ c' : FaultCode, (st.record c).fcode = c'.byte := by
  rw [record_fcode]
  split
  · exact h ‹_›
  · exact ⟨c, rfl⟩

/-- Each of these keeps STATUS well formed. -/
theorem StatusChange.statusInv {s t : State} (h : StatusChange s.status t.status) (hs : s.StatusInv) :
    t.StatusInv := by
  generalize ht : t.status = st at h
  constructor <;> rw [ht]
  case fcode_clear =>
    intro hf
    cases h with
    | same => exact hs.fcode_clear hf
    | completed o d hd => exact hs.fcode_clear hf
    | raised c => cases (commandFault_fault s.status c).symm.trans hf
    | recorded c => cases (record_fault s.status c).symm.trans hf
  case fcode_set =>
    intro hf
    cases h with
    | same => exact hs.fcode_set hf
    | completed o d hd => exact hs.fcode_set hf
    | raised c => exact record_fcode_isFault _ c hs.fcode_set
    | recorded c => exact record_fcode_isFault _ c hs.fcode_set
  case code_ok =>
    cases h with
    | same => exact hs.code_ok
    | completed o d hd => exact .inl (outcome_byte_le o)
    | raised c => exact .inr ⟨commandFault_fault _ c, c, rfl⟩
    | recorded c =>
      rw [record_code, record_fault]
      exact hs.code_ok.imp_right fun ⟨_, hc⟩ => ⟨rfl, hc⟩
  case defaulted_ok =>
    intro hdef
    cases h with
    | same => exact hs.defaulted_ok hdef
    | completed o d hd => rw [complete_code, hd hdef]; rfl
    | raised c => cases hdef
    | recorded c =>
      rw [record_defaulted] at hdef
      rw [record_code, hs.defaulted_ok hdef]

/-! ### The end of a run -/

/-- `t` is where a command ends whose run went as `w`. -/
structure RunEnd (w : Walk) (t : State) : Prop where
  kept : t = { w.state with busy := t.busy, status := t.status, res := t.res }
  status : StatusChange w.state.status t.status
  waits : ∀ q, t.busy = some q → t.status = w.state.status ∧ ∃ u, w = .wait q u

/-- MUX_SEND and MUX_RECV end alike, but for RES. -/
theorem runEnd_of_next {w : Walk} {t : State} (h : endSend w = .next t ∨ endRecv w = .next t) :
    RunEnd w t := by
  cases w with
  | done u =>
    rcases h with h | h <;> cases h <;> exact ⟨rfl, .completed .ok false nofun, nofun⟩
  | stop c u => rcases h with h | h <;> cases h <;> exact ⟨rfl, .raised c, nofun⟩
  | wait q u =>
    rcases h with h | h <;> cases h <;> exact ⟨rfl, .same, fun p hp => ⟨rfl, u, by cases hp; rfl⟩⟩

/-- Every way a command ends: a fault before it did anything, its effect, or the end of a run. -/
theorem exec_next_run {i : Instr} {s t : State} (h : exec i s = .next t) :
    (∃ c, t = s.setStatus (s.status.commandFault c)) ∨
    (∃ o d u, CommandEffect s i o d u ∧ t = u.setStatus (u.status.complete o d)) ∨
    ∃ w, DispatchRun s w ∧ RunEnd w t := by
  rcases exec_next h with hfault | heffect | ⟨_, hend⟩ | ⟨_, hend⟩
  · exact .inl hfault
  · exact .inr (.inl heffect)
  · exact .inr (.inr ⟨_, walkSlots_run sendDispatch_run _ 0 s (Nat.le_refl _), runEnd_of_next (.inl hend)⟩)
  · exact .inr (.inr ⟨_, walkSlots_run recvDispatch_run _ 0 s (Nat.le_refl _), runEnd_of_next (.inr hend)⟩)

/-- A waiting command goes on as a run to its end. -/
theorem resume_next_run {q : Wait} {s t : State} (hb : s.busy = some q) (h : resume q s = .next t) :
    ∃ w, DispatchRun s w ∧ RunEnd w t := by
  obtain ⟨w, hrun, hx⟩ := resume_run hb
  exact ⟨w, hrun, runEnd_of_next (hx.imp (·.symm.trans h) (·.symm.trans h))⟩

end Sys2Proof.Machine
end

section
/-! PROOFS. What every step keeps of the engines and the mean bank (10_state.md rules R28, R34), of STATUS
(rule R25) and of a waiting command (43_multiplexer.md rule R193). -/

namespace Sys2Proof.Machine

/-! ### Kinds of steps -/

/-- From `s` to `t` the block took at most a host access that ran no command: only what an access itself
writes has changed (20_memory.md rule R69). -/
structure AccessFrame (s t : State) : Prop where
  kept : t = { s with opa := t.opa, opb := t.opb, status := t.status, fb := t.fb, bus := t.bus,
                      reply := t.reply }
  status : StatusChange s.status t.status

/-- A step is a reset, goes on with a waiting command, takes a host access that runs no command, or runs
one. -/
theorem step_next_kinds {s t : State} (h : step s = .next t) :
    (∃ rest, t = (s.takeEvent rest).platformReset) ∨
    (∃ q, s.busy = some q ∧ resume q s = .next t) ∨
    (s.busy = none ∧ AccessFrame s t) ∨
    (s.busy = none ∧ s.status.fault = false ∧ ∃ i rest, exec i (s.takeEvent rest) = .next t) := by
  rcases step_next h with ⟨rest, _, ht⟩ | ⟨_, hresume | ⟨hb, ⟨_, rfl⟩ | ⟨ev, rest, _, hev⟩⟩⟩
  · exact .inl ⟨rest, ht⟩
  · exact .inr (.inl hresume)
  · exact .inr (.inr (.inl ⟨hb, rfl, .same⟩))
  rcases hev with rfl | ⟨v, rfl⟩ | ⟨c, v, rfl⟩ | ⟨c, rfl⟩ | ⟨v, rfl⟩ | ⟨v, rfl⟩ | ⟨a, b, _, rfl⟩ |
    ⟨_, c, rfl⟩ | ⟨hf, i, hexec⟩
  · exact .inr (.inr (.inl ⟨hb, rfl, .same⟩))
  · exact .inr (.inr (.inl ⟨hb, rfl, .same⟩))
  · exact .inr (.inr (.inl ⟨hb, rfl, .recorded c⟩))
  · exact .inr (.inr (.inl ⟨hb, rfl, .recorded c⟩))
  · exact .inr (.inr (.inl ⟨hb, rfl, .same⟩))
  · exact .inr (.inr (.inl ⟨hb, rfl, .same⟩))
  · exact .inr (.inr (.inl ⟨hb, rfl, .same⟩))
  · exact .inr (.inr (.inl ⟨hb, rfl, .raised c⟩))
  · exact .inr (.inr (.inr ⟨hb, hf, i, rest, hexec⟩))

/-! ### Engines and accumulators -/

/-- The invariant is about the configuration and the accumulators only. -/
theorem State.MeanInv.congr {s t : State} (hs : s.MeanInv) (hcfg : t.cfg = s.cfg) (hmean : t.mean = s.mean) :
    t.MeanInv where
  sized := by rw [hcfg, hmean, hs.sized]
  invalid := by rw [hmean]; exact hs.invalid

/-- Storing a valid accumulator keeps the invariant. -/
theorem State.MeanInv.setMean {s : State} (hs : s.MeanInv) (m : Nat) {a : Mean} (ha : a.valid = true) :
    (s.setMean m a).MeanInv where
  sized := by rw [setMean_mean, List.length_set, setMean_cfg, hs.sized]
  invalid x hx hxv := by
    rcases List.mem_or_eq_of_mem_set hx with hold | rfl
    · exact hs.invalid x hold hxv
    · rw [ha] at hxv
      cases hxv

/-- A command that completes without dispatches keeps the engines. -/
theorem CommandEffect.engineInv {s u : State} {i : Instr} {o : StatusOutcome} {d : Bool}
    (h : CommandEffect s i o d u) (hs : s.EngineInv) : u.EngineInv := by
  cases h with
  | rdoInit e hv hr => exact hs.setRdo _ hv hr
  | rdoAdvance e hv => exact hs.update hv _ _
  | rdoEnable e hv b => exact hs.update hv _ b
  | _ => exact hs.congr rfl rfl

/-- A command that completes without dispatches keeps the mean bank. -/
theorem CommandEffect.meanInv {s u : State} {i : Instr} {o : StatusOutcome} {d : Bool}
    (h : CommandEffect s i o d u) (hs : s.MeanInv) : u.MeanInv := by
  cases h with
  | meanInit f m ha => exact hs.setMean _ ha
  | meanAdd m ha lo hi => exact (hs.setMean _ ha).congr rfl rfl
  | meanReset m ha => exact hs.setMean _ ha
  | _ => exact hs.congr rfl rfl

/-- The end of a run leaves the engines and the mean bank as the run did. -/
theorem RunEnd.engineInv_meanInv {s t : State} {w : Walk} (hend : RunEnd w t) (hrun : DispatchRun s w)
    (he : s.EngineInv) (hm : s.MeanInv) : t.EngineInv ∧ t.MeanInv := by
  have hw : w.state.EngineInv := hrun.engines he
  have hframe := hrun.frame
  rw [hend.kept]
  exact ⟨hw.congr rfl rfl, hm.congr (by rw [hframe]) (by rw [hframe])⟩

/-- Every command keeps the engines and the mean bank. -/
theorem exec_engineInv_meanInv {i : Instr} {s t : State} (h : exec i s = .next t) (he : s.EngineInv)
    (hm : s.MeanInv) : t.EngineInv ∧ t.MeanInv := by
  rcases exec_next_run h with ⟨c, rfl⟩ | ⟨o, d, u, heffect, rfl⟩ | ⟨w, hrun, hend⟩
  · exact ⟨he.congr rfl rfl, hm.congr rfl rfl⟩
  · exact ⟨(heffect.engineInv he).congr rfl rfl, (heffect.meanInv hm).congr rfl rfl⟩
  · exact hend.engineInv_meanInv hrun he hm

/-- No engine is initialised after reset (10_state.md rule R37). -/
theorem resetWith_engineInv (c : Config) : (State.resetWith c).EngineInv where
  sized := List.length_replicate
  rollover r hr hv := by
    rw [List.eq_of_mem_replicate hr] at hv
    cases hv
  invalid r hr _ := List.eq_of_mem_replicate hr

/-- No accumulator is initialised after reset (10_state.md rule R37). -/
theorem resetWith_meanInv (c : Config) : (State.resetWith c).MeanInv where
  sized := List.length_replicate
  invalid _ ha _ := List.eq_of_mem_replicate ha

/-! ### STATUS and the wait -/

/-- The end of a run changes STATUS in one of the ways of `StatusChange`. -/
theorem RunEnd.statusChange {s t : State} {w : Walk} (hend : RunEnd w t) (hrun : DispatchRun s w) :
    StatusChange s.status t.status := by
  have hsame : w.state.status = s.status := by rw [hrun.frame]
  exact hsame ▸ hend.status

/-- A command changes STATUS in one of the ways of `StatusChange`. -/
theorem exec_statusChange {i : Instr} {s t : State} (h : exec i s = .next t) :
    StatusChange s.status t.status := by
  rcases exec_next_run h with ⟨c, rfl⟩ | ⟨o, d, u, heffect, rfl⟩ | ⟨w, hrun, hend⟩
  · exact .raised c
  · rw [heffect.status]
    exact .completed o d heffect.ok_of_defaulted
  · exact hend.statusChange hrun

/-- A step clears STATUS by a reset or changes it in one of the ways of `StatusChange`. -/
theorem step_statusChange {s t : State} (h : step s = .next t) :
    t.status = Status.zero ∨ StatusChange s.status t.status := by
  rcases step_next_kinds h with ⟨rest, rfl⟩ | ⟨q, hb, hresume⟩ | ⟨_, haccess⟩ | ⟨_, _, i, rest, hexec⟩
  · exact .inl rfl
  · obtain ⟨w, hrun, hend⟩ := resume_next_run hb hresume
    exact .inr (hend.statusChange hrun)
  · exact .inr haccess.status
  · exact .inr (exec_statusChange (s := s.takeEvent rest) hexec)

/-- STATUS after reset (10_state.md rule R37). -/
theorem statusInv_of_zero {s : State} (h : s.status = Status.zero) : s.StatusInv := by
  constructor <;> rw [h]
  · exact fun _ => rfl
  · exact fun hf => by cases hf
  · exact .inl (Nat.zero_le _)
  · exact fun _ => rfl

/-- The invariant of a command in progress, for both kinds of wait at once. -/
theorem waitInv_iff (s : State) :
    s.WaitInv ↔ ∀ q, s.busy = some q → q.Registered s ∧ s.status.fault = false := by
  constructor
  · intro hs q hq
    have hfault : s.status.fault = false := hs.fault (by simp [hq])
    cases q with
    | sendRsp i => exact ⟨hs.send i hq, hfault⟩
    | recvAck i => exact ⟨hs.recv i hq, hfault⟩
  · intro hs
    refine ⟨fun i hq => (hs _ hq).1, fun i hq => (hs _ hq).1, fun hb => ?_⟩
    obtain ⟨q, hq⟩ := Option.ne_none_iff_exists'.1 hb
    exact (hs q hq).2

/-- A command that waits once its run has ended waits at a registered slot, with FAULT as before. -/
theorem RunEnd.wait {s t : State} {w : Walk} (hend : RunEnd w t) (hrun : DispatchRun s w) {q : Wait}
    (hq : t.busy = some q) : t.status = s.status ∧ (s.busy = some q ∨ q.Registered s) ∧ TableEq s t := by
  obtain ⟨hstatus, u, hw⟩ := hend.waits q hq
  have hframe := hrun.frame
  refine ⟨hstatus.trans (by rw [hframe]), hrun.waits q u hw, ?_⟩
  rw [hend.kept, hframe]
  simp [TableEq]

/-- Every command that is accepted keeps the invariant of the wait (FAULT is clear then, 60_exceptions.md rule
R210). -/
theorem exec_waitInv {i : Instr} {s t : State} (h : exec i s = .next t) (hb : s.busy = none)
    (hf : s.status.fault = false) : t.WaitInv := by
  rw [waitInv_iff]
  intro q hq
  rcases exec_next_run h with ⟨c, rfl⟩ | ⟨o, d, u, heffect, rfl⟩ | ⟨w, hrun, hend⟩
  · cases hb.symm.trans hq
  · cases (heffect.busy.trans hb).symm.trans hq
  · obtain ⟨hstatus, hs | hreg, htable⟩ := hend.wait hrun hq
    · cases hb.symm.trans hs
    · exact ⟨htable.registered.2 hreg, hstatus ▸ hf⟩

/-- A command that goes on keeps the invariant of the wait. -/
theorem resume_waitInv {p : Wait} {s t : State} (hb : s.busy = some p) (h : resume p s = .next t)
    (hs : s.WaitInv) : t.WaitInv := by
  rw [waitInv_iff] at hs ⊢
  intro q hq
  obtain ⟨w, hrun, hend⟩ := resume_next_run hb h
  obtain ⟨hstatus, hwait, htable⟩ := hend.wait hrun hq
  have hreg : q.Registered s := hwait.elim (fun hsame => (hs q hsame).1) id
  exact ⟨htable.registered.2 hreg, hstatus ▸ (hs p hb).2⟩

/-- Without a command in progress there is nothing to say of it. -/
theorem waitInv_of_idle {s : State} (h : s.busy = none) : s.WaitInv := by
  rw [waitInv_iff]
  intro q hq
  cases h.symm.trans hq

end Sys2Proof.Machine

namespace Sys2Proof.Proofs
open Sys2Proof.Machine

/-- Settles O56: of the ways a step ends (`step_next_kinds`), only commands and resumed runs write an engine
or an accumulator, and those write back a valid one. -/
theorem stepKeepsInstances : Obligations.StepKeepsInstances := by
  intro s t he hm hstep
  rcases step_next_kinds hstep with ⟨rest, rfl⟩ | ⟨q, hb, hresume⟩ | ⟨_, haccess⟩ | ⟨_, _, i, rest, hexec⟩
  · exact ⟨(resetWith_engineInv s.cfg).congr rfl rfl, (resetWith_meanInv s.cfg).congr rfl rfl⟩
  · obtain ⟨w, hrun, hend⟩ := resume_next_run hb hresume
    exact hend.engineInv_meanInv hrun he hm
  · rw [haccess.kept]
    exact ⟨he.congr rfl rfl, hm.congr rfl rfl⟩
  · exact exec_engineInv_meanInv hexec (he.congr rfl rfl) (hm.congr rfl rfl)

/-- Settles O57: STATUS changes as `StatusChange` says, and a run that waits does so at a registered slot
(`DispatchRun.waits`), with STATUS as before. -/
theorem stepKeepsStatusAndWait : Obligations.StepKeepsStatusAndWait := by
  intro s t hstep
  refine ⟨fun hs => ?status, fun hs => ?wait⟩
  case status =>
    rcases step_statusChange hstep with hzero | hchange
    · exact statusInv_of_zero hzero
    · exact hchange.statusInv hs
  case wait =>
    rcases step_next_kinds hstep
      with ⟨rest, rfl⟩ | ⟨q, hb, hresume⟩ | ⟨hb, haccess⟩ | ⟨hb, hf, i, rest, hexec⟩
    · exact waitInv_of_idle rfl
    · exact resume_waitInv hb hresume hs
    · rw [haccess.kept]
      exact waitInv_of_idle hb
    · exact exec_waitInv hexec hb hf

/-- Settles O58: each part of the invariant at reset. -/
theorem resetSatisfiesInvariant : Obligations.ResetSatisfiesInvariant := by
  have hreset (c : Config) (hc : c.Legal) : (State.resetWith c).Inv :=
    { table := resetWith_tableInv hc
      frame := ⟨List.Pairwise.nil, fun _ h => by cases h⟩
      engines := resetWith_engineInv c
      means := resetWith_meanInv c
      status := statusInv_of_zero rfl
      waiting := waitInv_of_idle rfl }
  exact ⟨hreset, hreset Config.example (by decide)⟩

end Sys2Proof.Proofs
end

section
/-! PROOFS. Commands and their operands (30_encoding.md rule R88), and host accesses to the registers and the
frame buffer (20_memory.md section 4, 10_state.md rule R36). -/

namespace Sys2Proof.Machine

/-! ### Faults -/

/-- The model's fault record is that of 60_exceptions.md rule R214, code by code. -/
theorem commandFault_eq (st : Status) (c : FaultCode) : st.commandFault c = st.faulted c.byte := by
  obtain ⟨code, dflt, fcode, fault⟩ := st
  cases fault <;> rfl

/-- The same for a fault of a bus access. -/
theorem record_eq (st : Status) (c : FaultCode) : st.record c = st.busFaulted c.byte := by
  obtain ⟨code, dflt, fcode, fault⟩ := st
  cases fault <;> rfl

/-- A fault raised before anything was written. -/
theorem raise_eq (c : FaultCode) (s : State) : raise c s = .next (s.faultedWith c.byte) := by
  rw [raise, commandFault_eq]
  rfl

/-! ### Unwritten operands -/

theorem withA_unwritten {s : State} {k : Word → Result} (h : s.opa = none) :
    withA s k = .next (s.faultedWith 0x14#8) := by
  rw [withA, h]
  exact raise_eq .operandUnwritten s

theorem withB_unwritten {s : State} {k : Word → Result} (h : s.opb = none) :
    withB s k = .next (s.faultedWith 0x14#8) := by
  rw [withB, h]
  exact raise_eq .operandUnwritten s

/-- A command that reads both operands faults if either is unwritten. -/
theorem withA_withB_unwritten {s : State} {k : Word → Word → Result} (h : s.opa = none ∨ s.opb = none) :
    (withA s fun a => withB s (k a)) = .next (s.faultedWith 0x14#8) := by
  cases ha : s.opa with
  | none => exact withA_unwritten ha
  | some a => rw [withA_some ha, withB_unwritten (h.resolve_left (by simp [ha]))]

/-! ### Accesses -/

/-- A register's value does not depend on what is on the bus. -/
@[simp] theorem regRead_takeEvent (s : State) (rest : List Event) (r : Reg) :
    regRead (s.takeEvent rest) r = regRead s r := by
  cases r <;> rfl

/-- A read that faults returns 0 and records the fault. -/
theorem readFault_eq (c : FaultCode) (s : State) :
    readFault c s = { s with reply := some 0#32, status := s.status.busFaulted c.byte } := by
  rw [readFault, State.busFault, record_eq]
  rfl

section
variable {s : State} {r : Reg} (hc : s.cfg.Legal) (hr : r.Exists s.cfg)
include hc hr

theorem hostRead_reg_some {v : Word} (h : regRead s r = some v) : hostRead r.offset 32 s = s.setReply v := by
  simp only [hostRead, target_register hc hr, h]

theorem hostRead_reg_none (h : regRead s r = none) :
    hostRead r.offset 32 s = { s with reply := some 0#32, status := s.status.busFaulted 0x1E#8 } := by
  simp only [hostRead, target_register hc hr, h]
  exact readFault_eq .unwrittenRead s

/-- A write to a register but CMD, OPA and OPB is a bad access (20_memory.md rule R64). -/
theorem hostWrite_reg (data : Word) (hcmd : r ≠ .cmd) (hopa : r ≠ .opa) (hopb : r ≠ .opb) :
    hostWrite r.offset 32 data s = .next { s with status := s.status.busFaulted 0x1D#8 } := by
  have hbad : hostWrite r.offset 32 data s = .next (s.busFault .badAccess) := by
    rw [hostWrite, target_register hc hr]
    cases r with
    | cmd => exact absurd rfl hcmd
    | opa => exact absurd rfl hopa
    | opb => exact absurd rfl hopb
    | _ => rfl
  rw [hbad, State.busFault, record_eq]
  rfl

end

section
variable {s : State} {a : Nat} (ha : a < s.cfg.fbBytes)
include ha

theorem hostRead_byte_some {b : Byte} (h : Memory.read s.fb a = some b) :
    hostRead (0x1000 + a) 8 s = s.setReply (b.setWidth 32) := by
  simp only [hostRead, target_byte ha, h]

theorem hostRead_byte_none (h : Memory.read s.fb a = none) :
    hostRead (0x1000 + a) 8 s = { s with reply := some 0#32, status := s.status.busFaulted 0x1E#8 } := by
  simp only [hostRead, target_byte ha, h]
  exact readFault_eq .unwrittenRead s

theorem hostWrite_byte (data : Word) :
    hostWrite (0x1000 + a) 8 data s = .next (s.setFb (Memory.write s.fb a (data.setWidth 8))) := by
  rw [hostWrite, target_byte ha]

end

/-! ### Taking an access to a frame byte -/

section
variable {s : State} {a : Nat} {rest : List Event} (hb : s.busy = none) (hfb : s.cfg.fbBytes ≤ 4096)
  (ha : a < s.cfg.fbBytes)
include hb hfb ha

theorem step_readByte_some {b : Byte} (hbus : s.bus = .read (s.cfg.fxmuxBase + 0x1000 + a) 8 :: rest)
    (h : Memory.read s.fb a = some b) :
    step s = .next { s with bus := rest, reply := some (b.setWidth 32) } := by
  rw [Nat.add_assoc] at hbus
  rw [step_read hb (by omega) hbus, hostRead_byte_some (s := s.takeEvent rest) ha h]
  rfl

theorem step_readByte_none (hbus : s.bus = .read (s.cfg.fxmuxBase + 0x1000 + a) 8 :: rest)
    (h : Memory.read s.fb a = none) :
    step s = .next { s with bus := rest, reply := some 0#32, status := s.status.busFaulted 0x1E#8 } := by
  rw [Nat.add_assoc] at hbus
  rw [step_read hb (by omega) hbus, hostRead_byte_none (s := s.takeEvent rest) ha h]
  rfl

theorem step_writeByte {data : Word} (hbus : s.bus = .write (s.cfg.fxmuxBase + 0x1000 + a) 8 data :: rest) :
    step s = .next ((s.takeEvent rest).setFb (Memory.write s.fb a (data.setWidth 8))) := by
  rw [Nat.add_assoc] at hbus
  rw [step_write hb (by omega) hbus, hostWrite_byte (s := s.takeEvent rest) ha data]
  rfl

end

/-! ### The register map -/

section
variable {v w : Nat} {hi : BitVec v} {lo : BitVec w}

/-- A field that stands above `lo`, read from there. -/
theorem extract_above {n len : Nat} : (hi ++ lo).extractLsb' (n + w) len = hi.extractLsb' n len := by
  rw [BitVec.extractLsb'_append_eq_of_le (Nat.le_add_left w n), Nat.add_sub_cancel]

/-- A bit above `lo`, read from there. -/
theorem getLsbD_above {n : Nat} : (hi ++ lo).getLsbD (n + w) = hi.getLsbD n := by
  rw [BitVec.getLsbD_append, if_neg (by omega), Nat.add_sub_cancel]

end

/-- A flag as the lowest field. -/
theorem getLsbD_append_flagBit {v : Nat} {hi : BitVec v} (b : Bool) : (hi ++ flagBit b).getLsbD 0 = b := by
  rw [BitVec.getLsbD_append, if_pos (by decide)]
  cases b <;> rfl

/-- A flag as the only field. -/
theorem getLsbD_flagBit (b : Bool) : (flagBit b).getLsbD 0 = b := by
  cases b <;> rfl

/-- STATUS, field by field (10_state.md rule R25). -/
theorem statusWord_fields (st : Status) :
    st.word.extractLsb' 0 8 = st.code ∧ st.word.getLsbD 8 = st.defaulted ∧ st.word.extractLsb' 9 7 = 0#7 ∧
      st.word.extractLsb' 16 8 = st.fcode ∧ st.word.extractLsb' 24 7 = 0#7 ∧ st.word.getLsbD 31 = st.fault :=
  ⟨BitVec.extractLsb'_append_eq_right,
    getLsbD_above.trans (getLsbD_append_flagBit _),
    extract_above.trans <| extract_above.trans BitVec.extractLsb'_append_eq_right,
    extract_above.trans <| extract_above.trans <| extract_above.trans BitVec.extractLsb'_append_eq_right,
    extract_above.trans <| extract_above.trans <| extract_above.trans <| extract_above.trans
      BitVec.extractLsb'_append_eq_right,
    getLsbD_above.trans <| getLsbD_above.trans <| getLsbD_above.trans <| getLsbD_above.trans <|
      getLsbD_above.trans (getLsbD_flagBit _)⟩

/-- PARAM0, field by field (10_state.md rule R27): each count fits its byte. -/
theorem param0_fields {c : Config} (hc : c.Legal) :
    ((param0 c).extractLsb' 0 8).toNat = c.muxMaxSlots ∧
      ((param0 c).extractLsb' 8 8).toNat = c.meanCount ∧
      ((param0 c).extractLsb' 16 8).toNat = c.rdoCount ∧
      ((param0 c).extractLsb' 24 8).toNat = c.extPorts := by
  have hslots : (param0 c).extractLsb' 0 8 = BitVec.ofNat 8 c.muxMaxSlots :=
    BitVec.extractLsb'_append_eq_right
  have hmean : (param0 c).extractLsb' 8 8 = BitVec.ofNat 8 c.meanCount :=
    extract_above.trans BitVec.extractLsb'_append_eq_right
  have hrdo : (param0 c).extractLsb' 16 8 = BitVec.ofNat 8 c.rdoCount :=
    extract_above.trans <| extract_above.trans BitVec.extractLsb'_append_eq_right
  have hports : (param0 c).extractLsb' 24 8 = BitVec.ofNat 8 c.extPorts :=
    extract_above.trans <| extract_above.trans <| extract_above.trans BitVec.extractLsb'_eq_self
  obtain ⟨⟨_, hslotsLe⟩, _, ⟨_, hmeanLe⟩, ⟨_, hrdoLe⟩, hportsLe, _⟩ := hc
  rw [hslots, hmean, hrdo, hports]
  simp only [BitVec.toNat_ofNat]
  omega

/-- The two halves of a sum make it up (10_state.md rule R28). -/
theorem sum_halves (x : DWord) : x.extractLsb' 32 32 ++ x.extractLsb' 0 32 = x :=
  (BitVec.extractLsb'_append_extractLsb'_eq_extractLsb' rfl).trans BitVec.extractLsb'_eq_self

/-- MEAN_CFG, field by field (10_state.md rule R36). -/
theorem meanCfg_fields {w : Word} {valid : Bool} {prec : BitVec 5} (hw : w = flagBit valid ++ 0#26 ++ prec) :
    w.extractLsb' 0 5 = prec ∧ w.extractLsb' 5 26 = 0#26 ∧ w.getLsbD 31 = valid := by
  subst hw
  exact ⟨BitVec.extractLsb'_append_eq_right, extract_above.trans BitVec.extractLsb'_append_eq_right,
    getLsbD_above.trans <| getLsbD_above.trans (getLsbD_flagBit _)⟩

/-- SLOT_HANDLERS, field by field (10_state.md rule R36). -/
theorem slotHandlers_fields {w : Word} {recv send : Byte} (hw : w = (recv ++ send).setWidth 32) :
    w.extractLsb' 0 8 = send ∧ w.extractLsb' 8 8 = recv ∧ w.extractLsb' 16 16 = 0#16 := by
  have hw' : w = 0#16 ++ (recv ++ send) := hw.trans (BitVec.setWidth_eq_append (by decide))
  subst hw'
  refine ⟨?_, ?_, extract_above.trans BitVec.extractLsb'_eq_self⟩
  · rw [BitVec.extractLsb'_append_eq_of_add_le (by decide), BitVec.extractLsb'_append_eq_right]
  · rw [BitVec.extractLsb'_append_eq_of_add_le (by decide), BitVec.extractLsb'_append_eq_left]

/-- RDO_CTRL, field by field (10_state.md rule R36). -/
theorem rdoCtrl_fields {w : Word} {valid enabled : Bool} (hw : w = flagBit valid ++ 0#30 ++ flagBit enabled) :
    w.getLsbD 0 = enabled ∧ w.extractLsb' 1 30 = 0#30 ∧ w.getLsbD 31 = valid := by
  subst hw
  exact ⟨getLsbD_append_flagBit _, extract_above.trans BitVec.extractLsb'_append_eq_right,
    getLsbD_above.trans <| getLsbD_above.trans (getLsbD_flagBit _)⟩

/-! ### The registers after reset -/

theorem resetWith_meanAt (c : Config) (m : Nat) : (State.resetWith c).meanAt m = Mean.zero := by
  simp [State.meanAt, List.getElem?_replicate, apply_ite (Option.getD · Mean.zero)]

theorem resetWith_rdoAt (c : Config) (e : Nat) : (State.resetWith c).rdoAt e = Rdo.zero := by
  simp [State.rdoAt, List.getElem?_replicate, apply_ite (Option.getD · Rdo.zero)]

/-- No register holds what stays at a platform reset. -/
theorem regRead_platformReset (s : State) (r : Reg) :
    regRead s.platformReset r = regRead (State.resetWith s.cfg) r := by
  cases r <;> rfl

/-- After reset every register without a written mark but the parameters is 0 (10_state.md rule R37). -/
theorem regRead_reset (c : Config) {r : Reg} (hopa : r ≠ .opa) (hopb : r ≠ .opb) (hres : r ≠ .res)
    (hresh : r ≠ .resh) (hp0 : r ≠ .param0) (hp1 : r ≠ .param1) :
    regRead (State.resetWith c) r = some 0#32 := by
  cases r with
  | opa => exact absurd rfl hopa
  | opb => exact absurd rfl hopb
  | res => exact absurd rfl hres
  | resh => exact absurd rfl hresh
  | param0 => exact absurd rfl hp0
  | param1 => exact absurd rfl hp1
  | meanSumLo m | meanSumHi m | meanIndex m | meanMaxSize m | meanCfg m =>
    rw [regRead, resetWith_meanAt]
    rfl
  | slotInstance i | slotSize i | slotIndex i | slotHandlers i =>
    rw [regRead, resetWith_slotAt]
    rfl
  | rdoOffset e | rdoRollover e | rdoCtrl e =>
    rw [regRead, resetWith_rdoAt]
    rfl
  | cmd | muxState | muxCount | muxOffset | muxMaxbuf => rfl
  | status => exact congrArg some (show Status.zero.word = 0#32 by decide)

end Sys2Proof.Machine

namespace Sys2Proof.Proofs
open Sys2Proof.Machine

/-- Settles O9: each command comes to its operands once the checks that come before them have passed. -/
theorem unwrittenOperandFaults : Obligations.UnwrittenOperandFaults := by
  rintro i s ⟨hformat, hselect⟩ hready hop
  have hAB : s.opa = none ∨ s.opb = none := hop.imp And.right And.right
  have hA (hB : i.readsB = false) : s.opa = none := by simpa [hB] using hop.imp And.right id
  have hsome : i.readsA = true ∨ i.readsB = true := hop.imp And.left And.left
  cases i with
  | fxpInit | fxpAdd | fxpSub => exact withA_withB_unwritten hAB
  | fxpMul f | fxpDiv f => exact (needFormat_of hformat).trans (withA_withB_unwritten hAB)
  | fxpF2q f | fxpQ2f f | fxpI2q f | fxpQ2i f =>
    exact (needFormat_of hformat).trans (withA_unwritten (hA rfl))
  | meanInit f m =>
    exact (needFormat_of hformat).trans <| (needMean_of hselect).trans <| withA_unwritten (hA rfl)
  | meanAdd m | meanCalc m =>
    exact (needMean_of hselect).trans <| (needMeanValid_of hready).trans <| withA_unwritten (hA rfl)
  | muxInit => exact (if_neg (not_not.2 hready)).trans (withA_unwritten (hA rfl))
  | muxAdd => exact (needTable_of hready).trans (withA_withB_unwritten hAB)
  | muxRecv => exact (needTable_of hready).trans (withA_unwritten (hA rfl))
  | rdoInit e => exact (needRdo_of hselect).trans (withA_unwritten (hA rfl))
  | rdoEnable e =>
    exact (needRdo_of hselect).trans <| (needRdoValid_of hready).trans <| withA_unwritten (hA rfl)
  | fxpOne | meanReset | muxSend | rdoAdvance | rdoGet => simp [Instr.readsA, Instr.readsB] at hsome

/-- Settles O4: the write lands on CMD and is decoded. -/
theorem stepRunsDecodedCommand : Obligations.StepRunsDecodedCommand := by
  intro s w i rest hb hf hbus hw
  have hcmd : target s.cfg 0x000 32 = .reg .cmd := rfl
  rw [step_write hb (by decide) hbus, hostWrite, takeEvent_cfg, hcmd]
  simp only [writeCmd, takeEvent_status, hf, hw]
  rfl

/-- Settles O44: the read lands on the register (`target_register`). -/
theorem registerReadReturnsContents : Obligations.RegisterReadReturnsContents := by
  intro s r rest hc hr hb hbus
  have hlt := offset_lt hc hr
  rw [step_read hb (by omega) hbus]
  refine ⟨fun v hv => ?_, fun hnone => ?_⟩
  · rw [hostRead_reg_some (s := s.takeEvent rest) hc hr (by simpa using hv)]
    rfl
  · rw [hostRead_reg_none (s := s.takeEvent rest) hc hr (by simpa using hnone)]
    rfl

/-- Settles O47: the write lands on the register (`target_register`), and every register but CMD, OPA and OPB
turns it down. -/
theorem registerWriteRights : Obligations.RegisterWriteRights := by
  intro s data rest hc hb
  refine ⟨fun hbus => ?opa, fun hbus => ?opb, fun r hr hcmd hopa hopb hbus => ?other⟩
  case opa =>
    have hopa : target s.cfg 0x004 32 = .reg .opa := rfl
    rw [step_write hb (by decide) hbus, hostWrite, takeEvent_cfg, hopa]
    rfl
  case opb =>
    have hopb : target s.cfg 0x008 32 = .reg .opb := rfl
    rw [step_write hb (by decide) hbus, hostWrite, takeEvent_cfg, hopb]
    rfl
  case other =>
    have hlt := offset_lt hc hr
    rw [step_write hb (by omega) hbus, hostWrite_reg (s := s.takeEvent rest) hc hr data
      (by rintro rfl; exact hcmd rfl) (by rintro rfl; exact hopa rfl) (by rintro rfl; exact hopb rfl)]
    rfl

/-- Settles O48: both accesses land on their bytes (`target_byte`); what the read finds are the two laws of
`Memory.write`. -/
theorem frameByteReadAfterWrite : Obligations.FrameByteReadAfterWrite := by
  intro s a b data rest hb ha hblt hfb hbus
  refine ⟨_, data.setWidth 8, by simp, step_writeByte hb hfb ha hbus, rfl, ?written, ?others, ?same, ?other,
    ?unwritten⟩
  case written => exact Memory.read_write_same _ _ _
  case others => exact fun x hx => Memory.read_write_ne _ _ _ _ hx
  case same =>
    rintro rfl
    exact step_readByte_some (s := (s.takeEvent _).setFb _) hb hfb hblt rfl (Memory.read_write_same _ _ _)
  case other =>
    intro hne w hw
    have hread : Memory.read (Memory.write s.fb a (data.setWidth 8)) b = some w :=
      (Memory.read_write_ne _ _ _ _ hne).trans hw
    exact step_readByte_some (s := (s.takeEvent _).setFb _) hb hfb hblt rfl hread
  case unwritten =>
    intro hne hnone
    have hread : Memory.read (Memory.write s.fb a (data.setWidth 8)) b = none :=
      (Memory.read_write_ne _ _ _ _ hne).trans hnone
    exact step_readByte_none (s := (s.takeEvent _).setFb _) hb hfb hblt rfl hread

/-- Settles O45: each packed register is its fields one above the other. -/
theorem packedRegisterLayout : Obligations.PackedRegisterLayout := by
  intro s
  refine ⟨⟨rfl, rfl⟩, ⟨rfl, rfl⟩, ⟨rfl, rfl⟩, ⟨rfl, rfl⟩, ⟨rfl, rfl⟩, ⟨rfl, ?status⟩, ⟨rfl, ?muxState⟩,
    ⟨rfl, ?muxCount⟩, ⟨rfl, ?muxOffset⟩, ⟨rfl, ?muxMaxbuf⟩, ⟨rfl, ?param0⟩, ⟨rfl, ?param1⟩, ?mean,
    ?slot, ?rdo⟩
  case status => exact ⟨_, rfl, statusWord_fields s.status⟩
  case muxState => refine ⟨?_, ?_, ?_⟩ <;> intro h <;> simp [regRead, h, MuxState.bits]
  case muxCount => exact ⟨_, rfl, by simp; omega⟩
  case muxOffset => exact ⟨_, rfl, by simp; omega⟩
  case muxMaxbuf => exact ⟨_, rfl, by simp; omega⟩
  case param0 => exact fun hc => ⟨_, rfl, param0_fields hc⟩
  case param1 =>
    rintro ⟨_, ⟨_, hfb⟩, _⟩
    exact ⟨_, rfl, by simp; omega⟩
  case mean =>
    intro m
    exact ⟨rfl, rfl, ⟨_, _, rfl, rfl, sum_halves _⟩, rfl, rfl, rfl, rfl, rfl, _, rfl, meanCfg_fields rfl⟩
  case slot =>
    intro i
    exact ⟨rfl, rfl, rfl, ⟨_, rfl, by simp; omega⟩, rfl, ⟨_, rfl, by simp; omega⟩, rfl, _, rfl,
      slotHandlers_fields rfl⟩
  case rdo =>
    intro e
    exact ⟨rfl, ⟨_, rfl, by simp; omega⟩, rfl, ⟨_, rfl, by simp; omega⟩, rfl, _, rfl, rdoCtrl_fields rfl⟩

/-- Settles O51: a reset step leaves the registers and the frame buffer of `State.resetWith`. -/
theorem resetRegisterValues : Obligations.ResetRegisterValues := by
  intro c t ht
  have hreset : (∀ r, regRead t r = regRead (State.resetWith c) r) ∧ t.fb = [] := by
    rcases ht with rfl | ⟨s, rest, rfl, hbus, hstep⟩
    · exact ⟨fun _ => rfl, rfl⟩
    · rcases step_cases s with ⟨rest', _, h⟩ | ⟨_, _, hne, _⟩ | ⟨ev, rest', _, hev, hne, _⟩ | ⟨_, hnil, _⟩
      · cases h.symm.trans hstep
        exact ⟨regRead_platformReset _, rfl⟩
      · exact absurd hbus (hne rest)
      · cases hev.symm.trans hbus
        exact absurd rfl hne
      · cases hnil.symm.trans hbus
  obtain ⟨hregs, hfb⟩ := hreset
  refine ⟨fun r _ => ⟨?unwritten, ?zero⟩, fun a => by rw [hfb, Memory.read_nil]⟩
  case unwritten =>
    rintro (rfl | rfl | rfl | rfl) <;> exact hregs _
  case zero =>
    intro hopa hopb hres hresh hp0 hp1
    exact (hregs r).trans (regRead_reset c hopa hopb hres hresh hp0 hp1)

end Sys2Proof.Proofs
end

section
/-! PROOFS. The frame buffer (20_memory.md rules R60, R72): what a dispatch of MUX_SEND writes of it, the
windows it stays in (43_multiplexer.md rule R186), and the invariant of the buffer kept by every step. -/

namespace Sys2Proof.Machine

/-! ### The window a dispatch writes -/

/-- `m` is the frame buffer of `s`, or that with the whole window of slot `i` written. -/
def WritesWindow (s : State) (i : Nat) (m : Memory) : Prop :=
  m = s.fb ∨ ∃ bs : List Byte, bs.length = (s.slotAt i).size.toNat ∧
    m = Memory.writeBytes s.fb (s.slotAt i).index.toNat bs

/-- A send dispatch writes the whole window of its slot or nothing (43_multiplexer.md rule R191). -/
theorem sendDispatch_fb (i : Nat) (s : State) : WritesWindow s i (sendDispatch i s).state.fb := by
  rcases sendDispatch_cases i s with ⟨c, h⟩ | ⟨_, ⟨_, _, hsize⟩, h⟩ | ⟨_, _, ⟨bs, _, _, hlen, h⟩ | h⟩ <;> rw [h]
  · exact .inl rfl
  · exact .inr ⟨_, by rw [hsize]; rfl, rfl⟩
  · exact .inr ⟨bs, hlen, rfl⟩
  · exact .inl rfl

/-- Taking a client's answer writes the whole window of the slot or nothing. -/
theorem takeSendRsp_fb (i : Nat) (s : State) : WritesWindow s i (takeSendRsp i s).state.fb := by
  rcases takeSendRsp_cases i s with ⟨bs, _, _, hlen, h⟩ | h <;> rw [h]
  · exact .inr ⟨bs, hlen, rfl⟩
  · exact .inl rfl

/-- Bytes outside the window stay. -/
theorem WritesWindow.read_outside {s : State} {i a : Nat} {m : Memory} (h : WritesWindow s i m)
    (ha : ¬ ((s.slotAt i).index.toNat ≤ a ∧ a < (s.slotAt i).index.toNat + (s.slotAt i).size.toNat)) :
    Memory.read m a = Memory.read s.fb a := by
  rcases h with rfl | ⟨bs, hlen, rfl⟩
  · rfl
  · exact Memory.read_writeBytes_outside _ _ _ _ (by omega)

/-! ### A byte outside every window -/

/-- Byte `a` lies in the window of no registered slot. -/
def State.OutsideWindows (s : State) (a : Nat) : Prop :=
  ∀ i, i < s.muxCount.toNat →
    ¬ ((s.slotAt i).index.toNat ≤ a ∧ a < (s.slotAt i).index.toNat + (s.slotAt i).size.toNat)

theorem TableEq.outsideWindows {s t : State} {a : Nat} (h : TableEq s t) (hs : s.OutsideWindows a) :
    t.OutsideWindows a := by
  have hslot := h.slotAt
  obtain ⟨_, _, hcount, _⟩ := h
  simpa only [State.OutsideWindows, hslot, hcount] using hs

/-- Send dispatches at registered slots write no byte outside the windows. -/
theorem walkSlots_send_read {n i a : Nat} {s : State} (hn : n ≤ s.muxCount.toNat - i)
    (ha : s.OutsideWindows a) :
    Memory.read (walkSlots sendDispatch n i s).state.fb a = Memory.read s.fb a := by
  induction n generalizing i s with
  | zero => rfl
  | succ n ih =>
    have hread : Memory.read (sendDispatch i s).state.fb a = Memory.read s.fb a :=
      (sendDispatch_fb i s).read_outside (ha i (by omega))
    have htable : TableEq s (sendDispatch i s).state := (sendDispatch_frame i s).tableEq
    rw [walkSlots_succ]
    cases hi : sendDispatch i s with
    | stop c t => rwa [hi] at hread
    | wait q t => rwa [hi] at hread
    | done t =>
      rw [hi] at hread htable
      have hrest : n ≤ t.muxCount.toNat - (i + 1) := by
        rw [clientDispatch_send.muxCount_of_done hi]
        omega
      exact (ih hrest (htable.outsideWindows ha)).trans hread

/-! ### The invariant of the frame buffer -/

/-- Every window lies within FB; that of a slot not registered is empty (10_state.md rules R31, R32). -/
theorem State.TableInv.window_le_fbBytes {s : State} (hs : s.TableInv) (i : Nat) :
    (s.slotAt i).index.toNat + (s.slotAt i).size.toNat ≤ s.cfg.fbBytes := by
  rcases Nat.lt_or_ge i s.muxCount.toNat with hi | hi
  · calc (s.slotAt i).index.toNat + (s.slotAt i).size.toNat
        = frameLen s.slots (i + 1) := by rw [hs.index_eq i hi, frameLen_succ, State.slotAt]
      _ ≤ frameLen s.slots s.muxCount.toNat := frameLen_mono _ hi
      _ = s.muxOffset.toNat := hs.offset_eq.symm
      _ ≤ s.muxMaxbuf.toNat := hs.offset_le
      _ ≤ s.cfg.fbBytes := hs.maxbuf_le
  · rw [hs.unregistered i hi]
    exact Nat.zero_le _

/-- The invariant is about the configuration and the frame buffer only. -/
theorem State.FrameInv.congr {s t : State} (hs : s.FrameInv) (hcfg : t.cfg = s.cfg) (hfb : t.fb = s.fb) :
    t.FrameInv where
  wf := by rw [hfb]; exact hs.wf
  below := by rw [hfb, hcfg]; exact hs.below

/-- Writing one byte of FB keeps the invariant. -/
theorem State.FrameInv.write {s : State} (hs : s.FrameInv) {a : Nat} (ha : a < s.cfg.fbBytes) (b : Byte) :
    (s.setFb (Memory.write s.fb a b)).FrameInv where
  wf := Memory.wf_write _ _ _ hs.wf
  below c hc := by
    rcases Memory.mem_write _ _ _ _ hc with rfl | hold
    · exact ha
    · exact hs.below c hold

/-- Writing a window keeps the invariant. -/
theorem WritesWindow.frameInv {s t : State} {i : Nat} (h : WritesWindow s i t.fb) (htable : s.TableInv)
    (hs : s.FrameInv) (hcfg : t.cfg = s.cfg) : t.FrameInv := by
  rcases h with hfb | ⟨bs, hlen, hfb⟩
  · exact hs.congr hcfg hfb
  · have hwindow := htable.window_le_fbBytes i
    rw [← hlen] at hwindow
    constructor <;> rw [hfb]
    · exact Memory.wf_writeBytes _ _ _ hs.wf
    · rw [hcfg]
      exact Memory.below_writeBytes _ _ _ _ hs.below hwindow

/-! ### Runs keep it -/

/-- The two invariants a run of dispatches keeps together: where it writes FB is the table's to say. -/
structure State.TableFrameInv (s : State) : Prop where
  table : s.TableInv
  frame : s.FrameInv

/-- What writes at most the window of one slot, and nothing but what dispatches write, keeps both. -/
theorem State.TableFrameInv.of_writesWindow {s t : State} (hs : s.TableFrameInv) (hframe : DispatchFrame s t)
    {i : Nat} (hfb : WritesWindow s i t.fb) : t.TableFrameInv where
  table := hframe.tableEq.tableInv hs.table
  frame := hfb.frameInv hs.table hs.frame (by rw [hframe])

theorem sendDispatch_tableFrameInv (i : Nat) (s : State) (hs : s.TableFrameInv) :
    (sendDispatch i s).state.TableFrameInv :=
  hs.of_writesWindow (sendDispatch_frame i s) (sendDispatch_fb i s)

theorem recvDispatch_tableFrameInv (i : Nat) (s : State) (hs : s.TableFrameInv) :
    (recvDispatch i s).state.TableFrameInv :=
  hs.of_writesWindow (recvDispatch_frame i s) (i := i) (.inl (recvDispatch_fb i s))

theorem takeSendRsp_frame (i : Nat) (s : State) : DispatchFrame s (takeSendRsp i s).state := by
  rcases takeSendRsp_cases i s with ⟨_, _, _, _, h⟩ | h <;> rw [h] <;> rfl

theorem takeRecvAck_frame (i : Nat) (s : State) : DispatchFrame s (takeRecvAck i s).state := by
  rcases takeRecvAck_cases i s with ⟨_, _, h⟩ | h <;> rw [h] <;> rfl

theorem takeRecvAck_fb (i : Nat) (s : State) : (takeRecvAck i s).state.fb = s.fb := by
  rcases takeRecvAck_cases i s with ⟨_, _, h⟩ | h <;> rw [h] <;> rfl

/-- What the first part of a run keeps and the rest keeps, the run keeps. -/
theorem Walk.andThen_keeps {P : State → Prop} {w : Walk} {k : State → Walk} (hw : P w.state)
    (hk : ∀ t, P t → P (k t).state) : P (w.andThen k).state := by
  cases w with
  | done t => exact hk t hw
  | stop c t => exact hw
  | wait q t => exact hw

/-- The end of a run leaves the frame buffer as the run did. -/
theorem RunEnd.frameInv {w : Walk} {t : State} (hend : RunEnd w t) (hw : w.state.TableFrameInv) :
    t.FrameInv := by
  rw [hend.kept]
  exact hw.frame.congr rfl rfl

/-- A command that goes on keeps the frame buffer. At whatever slot it waits: a slot not registered has an
empty window. -/
theorem resume_frameInv {q : Wait} {s t : State} (hs : s.TableFrameInv) (h : resume q s = .next t) :
    t.FrameInv := by
  cases q with
  | sendRsp i =>
    refine (runEnd_of_next (.inl ((resumeSend_eq i s).symm.trans h))).frameInv ?_
    refine Walk.andThen_keeps ?_ fun u hu => walkSlots_keeps sendDispatch_tableFrameInv _ _ u hu
    exact hs.of_writesWindow (takeSendRsp_frame i s) (takeSendRsp_fb i s)
  | recvAck i =>
    refine (runEnd_of_next (.inr ((resumeRecv_eq i s).symm.trans h))).frameInv ?_
    refine Walk.andThen_keeps ?_ fun u hu => walkSlots_keeps recvDispatch_tableFrameInv _ _ u hu
    exact hs.of_writesWindow (takeRecvAck_frame i s) (i := i) (.inl (takeRecvAck_fb i s))

/-- A command that completes without dispatches does not write the frame buffer. -/
theorem CommandEffect.frameInv {s u : State} {i : Instr} {o : StatusOutcome} {d : Bool}
    (h : CommandEffect s i o d u) (hs : s.FrameInv) : u.FrameInv := by
  cases h <;> exact hs.congr rfl rfl

/-- Every command keeps the frame buffer. -/
theorem exec_frameInv {i : Instr} {s t : State} (hs : s.TableFrameInv) (h : exec i s = .next t) :
    t.FrameInv := by
  rcases exec_next h with ⟨c, rfl⟩ | ⟨o, d, u, heffect, rfl⟩ | ⟨_, hend⟩ | ⟨_, hend⟩
  · exact hs.frame.congr rfl rfl
  · exact (heffect.frameInv hs.frame).congr rfl rfl
  · exact (runEnd_of_next (.inl hend)).frameInv (walkSlots_keeps sendDispatch_tableFrameInv _ _ s hs)
  · exact (runEnd_of_next (.inr hend)).frameInv (walkSlots_keeps recvDispatch_tableFrameInv _ _ s hs)

end Sys2Proof.Machine

namespace Sys2Proof.Proofs
open Sys2Proof.Machine

/-- Settles O55: only a host write to a byte of FB, and the dispatches of MUX_SEND, write the frame buffer;
the latter stay in the windows, which the table's invariant keeps within FB
(`State.TableInv.window_le_fbBytes`). -/
theorem stepKeepsFrameBuffer : Obligations.StepKeepsFrameBuffer := by
  intro s t htable hs hstep
  rcases step_next hstep
    with ⟨rest, _, rfl⟩ | ⟨_, ⟨q, _, hresume⟩ | ⟨_, ⟨_, rfl⟩ | ⟨ev, rest, _, hev⟩⟩⟩
  · exact ⟨List.Pairwise.nil, fun _ hc => by cases hc⟩
  · exact resume_frameInv ⟨htable, hs⟩ hresume
  · exact hs
  have htaken : (s.takeEvent rest).FrameInv := hs.congr rfl rfl
  have htakenTable : (s.takeEvent rest).TableInv := TableEq.tableInv (by simp [TableEq]) htable
  rcases hev with rfl | ⟨v, rfl⟩ | ⟨c, v, rfl⟩ | ⟨c, rfl⟩ | ⟨v, rfl⟩ | ⟨v, rfl⟩ | ⟨a, b, ha, rfl⟩ |
    ⟨_, c, rfl⟩ | ⟨_, i, hexec⟩
  iterate 6 exact htaken.congr rfl rfl
  · exact htaken.write ha b
  · exact htaken.congr rfl rfl
  · exact exec_frameInv ⟨htakenTable, htaken⟩ hexec

/-- Settles O36: MUX_SEND runs its dispatches at the registered slots only, and its end leaves the frame
buffer as they did. -/
theorem muxSendStaysInWindows : Obligations.MuxSendStaysInWindows := by
  intro s t h a ha
  rcases execMuxSend_cases s with hfault | ⟨_, hrun⟩
  · rw [raise_next.1 (hfault.symm.trans h)]
    rfl
  · have hend := runEnd_of_next (.inl (hrun.symm.trans h))
    rw [hend.kept]
    exact walkSlots_send_read (Nat.le_refl _) ha

end Sys2Proof.Proofs
end

section
/-! PROOFS. Host accesses that land nowhere, the edges of the window, and the order of events (20_memory.md
rules R62 to R65, R68, R71). -/

namespace Sys2Proof.Machine

/-! ### Accesses that land nowhere -/

theorem fixedReg_offset {off : Nat} {r : Reg} (h : fixedReg off = some r) (c : Config) :
    r.Exists c ∧ r.offset = off := by
  unfold fixedReg at h
  split at h <;> cases h <;> exact ⟨trivial, rfl⟩

theorem meanReg_offset {m place : Nat} {r : Reg} (h : meanReg m place = some r) {c : Config}
    (hm : m < c.meanCount) : r.Exists c ∧ r.offset = 0x100 + 0x20 * m + place := by
  unfold meanReg at h
  split at h <;> cases h <;> exact ⟨hm, rfl⟩

theorem slotReg_offset {i place : Nat} {r : Reg} (h : slotReg i place = some r) {c : Config}
    (hi : i < c.muxMaxSlots) : r.Exists c ∧ r.offset = 0x200 + 0x10 * i + place := by
  unfold slotReg at h
  split at h <;> cases h <;> exact ⟨hi, rfl⟩

theorem rdoReg_offset {e place : Nat} {r : Reg} (h : rdoReg e place = some r) {c : Config}
    (he : e < c.rdoCount) : r.Exists c ∧ r.offset = 0x400 + 0x10 * e + place := by
  unfold rdoReg at h
  split at h <;> cases h <;> exact ⟨he, rfl⟩

/-- The register an access finds exists and stands at that offset: the converse of `regAt_offset`, in every
configuration. -/
theorem offset_of_regAt {c : Config} {off : Nat} {r : Reg} (h : regAt c off = some r) :
    r.Exists c ∧ r.offset = off := by
  unfold regAt at h
  split at h
  case isTrue => exact fixedReg_offset h c
  split at h
  case isTrue =>
    split at h
    case isTrue hm =>
      obtain ⟨hr, hoff⟩ := meanReg_offset h hm
      exact ⟨hr, by omega⟩
    case isFalse => cases h
  split at h
  case isTrue =>
    split at h
    case isTrue hi =>
      obtain ⟨hr, hoff⟩ := slotReg_offset h hi
      exact ⟨hr, by omega⟩
    case isFalse => cases h
  split at h
  case isTrue =>
    split at h
    case isTrue he =>
      obtain ⟨hr, hoff⟩ := rdoReg_offset h he
      exact ⟨hr, by omega⟩
    case isFalse => cases h
  case isFalse => cases h

/-- Below the frame window, an access of another width than 32 or where no register stands lands nowhere
(rules R62, R64). -/
theorem target_bad_register {c : Config} {off width : Nat} (hlow : off < 0x1000)
    (h : width ≠ 32 ∨ ∀ r : Reg, r.Exists c → r.offset ≠ off) : target c off width = .bad := by
  rw [target, if_neg (Nat.not_le.2 hlow)]
  split
  case isFalse => rfl
  case isTrue hwidth =>
    have hnone := h.resolve_left (not_not.2 hwidth)
    cases hreg : regAt c off with
    | none => rfl
    | some r =>
      obtain ⟨hr, hoff⟩ := offset_of_regAt hreg
      exact absurd hoff (hnone r hr)

/-- In the frame window, an access of another width than 8 or beyond FB lands nowhere (rule R63). -/
theorem target_bad_byte {c : Config} {off width : Nat} (hhigh : 0x1000 ≤ off)
    (h : width ≠ 8 ∨ c.fbBytes ≤ off - 0x1000) : target c off width = .bad := by
  rw [target, if_pos hhigh, if_neg (by omega)]

theorem hostRead_bad {s : State} {off width : Nat} (h : target s.cfg off width = .bad) :
    hostRead off width s = { s with reply := some 0#32, status := s.status.busFaulted 0x1D#8 } := by
  simp only [hostRead, h]
  exact readFault_eq .badAccess s

theorem hostWrite_bad {s : State} {off width : Nat} (h : target s.cfg off width = .bad) (data : Word) :
    hostWrite off width data s = .next { s with status := s.status.busFaulted 0x1D#8 } := by
  simp only [hostWrite, h, State.busFault, record_eq]
  rfl

/-! ### Taking events -/

/-- With no command in progress a step takes the next event. -/
theorem step_of_idle {s : State} {ev : Event} {rest : List Event} (hb : s.busy = none)
    (hbus : s.bus = ev :: rest) : step s = takeStep ev (s.takeEvent rest) := by
  cases ev <;> simp only [step, blockStep, hbus, hb]

/-- The window is 0x2000 bytes from the base on (rule R61). -/
theorem not_inWindow {c : Config} {addr : Nat} (h : addr < c.fxmuxBase ∨ c.fxmuxBase + 0x2000 ≤ addr) :
    ¬ inWindow c addr := by
  rintro ⟨hlo, hhi⟩
  rw [windowBytes] at hhi
  omega

/-- The run of a command takes no event. -/
theorem RunEnd.bus {s t : State} {w : Walk} (hend : RunEnd w t) (hrun : DispatchRun s w) : t.bus = s.bus := by
  rw [hend.kept, hrun.frame]

/-- A command takes no event. -/
theorem exec_bus {i : Instr} {s t : State} (h : exec i s = .next t) : t.bus = s.bus := by
  rcases exec_next_run h with ⟨c, rfl⟩ | ⟨o, d, u, heffect, rfl⟩ | ⟨w, hrun, hend⟩
  · rfl
  · cases heffect <;> rfl
  · exact hend.bus hrun

end Sys2Proof.Machine

namespace Sys2Proof.Proofs
open Sys2Proof.Machine

/-- Settles O50: the step takes the access, which is not in the window. -/
theorem accessOutsideWindowStops : Obligations.AccessOutsideWindowStops := by
  intro s addr width data rest hb hout
  have hnot : ¬ inWindow (s.takeEvent rest).cfg addr := not_inWindow hout
  exact ⟨fun hbus => (step_of_idle hb hbus).trans (if_neg hnot),
    fun hbus => (step_of_idle hb hbus).trans (if_neg hnot)⟩

/-- Settles O46: the access is in the window and lands nowhere, since a register that it would land on exists
and stands at its offset (`offset_of_regAt`). -/
theorem badAccessFaults : Obligations.BadAccessFaults := by
  intro s off width rest hb hoff hplace
  have hbad : target s.cfg off width = .bad := by
    rcases hplace with ⟨hlow, h⟩ | ⟨hhigh, h⟩
    · exact target_bad_register hlow h
    · exact target_bad_byte hhigh h
  refine ⟨fun hbus => ?read, fun data hbus => ?write⟩
  case read =>
    rw [step_read hb hoff hbus, hostRead_bad (s := s.takeEvent rest) hbad]
    rfl
  case write =>
    rw [step_write hb hoff hbus, hostWrite_bad (s := s.takeEvent rest) hbad]
    rfl

/-- Settles O49: a waiting command goes on as a run, which leaves the events; every other step takes the first,
and the command it may run leaves the others. -/
theorem stepTakesNextEventInOrder : Obligations.StepTakesNextEventInOrder := by
  intro s t hstep
  rcases step_next hstep
    with ⟨rest, hbus, rfl⟩ | ⟨hreset, ⟨q, hb, hresume⟩ | ⟨hb, ⟨hbus, rfl⟩ | ⟨ev, rest, hbus, hev⟩⟩⟩
  · exact ⟨fun _ hne => absurd hbus (hne rest), fun _ => by rw [hbus]; rfl⟩
  · obtain ⟨w, hrun, hend⟩ := resume_next_run hb hresume
    refine ⟨fun _ _ => hend.bus hrun, ?_⟩
    rintro (hidle | ⟨rest, hbus⟩)
    · cases hb.symm.trans hidle
    · exact absurd hbus (hreset rest)
  · exact ⟨fun hbusy => absurd hb hbusy, fun _ => by rw [hbus]; rfl⟩
  · refine ⟨fun hbusy => absurd hb hbusy, fun _ => ?_⟩
    rw [hbus]
    rcases hev with rfl | ⟨v, rfl⟩ | ⟨c, v, rfl⟩ | ⟨c, rfl⟩ | ⟨v, rfl⟩ | ⟨v, rfl⟩ | ⟨a, b, _, rfl⟩ |
      ⟨_, c, rfl⟩ | ⟨_, i, hexec⟩
    iterate 8 rfl
    exact exec_bus hexec

end Sys2Proof.Proofs
end

section
/-! PROOFS. Decoding and encoding (30_encoding.md). Two facts carry the proofs: a word is determined by its
fields (R80), and both decoding and the opcode table's mask and match ask the same of them (R84, R86). -/

namespace Sys2Proof
open Sys2Proof.Machine (extract_above)

/-! ### The fields of a word -/

/-- OPC as a number. -/
theorem fieldOpc_toNat (w : Word) : (fieldOpc w).toNat = w.toNat / 2 ^ 26 := by
  rw [fieldOpc, BitVec.extractLsb'_toNat, Nat.shiftRight_eq_div_pow, Nat.mod_eq_of_lt (by omega)]

/-- The fields leave no bit of a word out. -/
theorem word_ext_iff {v w : Word} :
    v = w ↔ fieldOpc v = fieldOpc w ∧ fieldFmt v = fieldFmt w ∧ fieldSel v = fieldSel w ∧
      fieldRsv v = fieldRsv w := by
  simp only [fieldOpc, fieldFmt, Fmt.mk.injEq, fieldSel, fieldRsv, ← BitVec.toNat_inj,
    BitVec.extractLsb'_toNat, Nat.shiftRight_eq_div_pow]
  omega

section
variable (opc : BitVec 6) (f : Fmt) (sel : BitVec 8)

@[simp] theorem fieldOpc_packFields : fieldOpc (packFields opc f sel) = opc :=
  extract_above.trans <| extract_above.trans <| extract_above.trans <| extract_above.trans
    BitVec.extractLsb'_eq_self

@[simp] theorem fieldFmt_packFields : fieldFmt (packFields opc f sel) = f :=
  congrArg₂ Fmt.mk
    (extract_above.trans <| extract_above.trans <| extract_above.trans BitVec.extractLsb'_append_eq_right)
    (extract_above.trans <| extract_above.trans BitVec.extractLsb'_append_eq_right)

@[simp] theorem fieldSel_packFields : fieldSel (packFields opc f sel) = sel :=
  extract_above.trans BitVec.extractLsb'_append_eq_right

@[simp] theorem fieldRsv_packFields : fieldRsv (packFields opc f sel) = 0#8 :=
  BitVec.extractLsb'_append_eq_right

end

section
variable (w m : Word)

/-- A mask acts field by field. -/
@[simp] theorem fieldOpc_and : fieldOpc (w &&& m) = fieldOpc w &&& fieldOpc m := BitVec.extractLsb'_and

@[simp] theorem fieldFmt_and :
    fieldFmt (w &&& m) = ⟨(fieldFmt w).fp &&& (fieldFmt m).fp, (fieldFmt w).fi &&& (fieldFmt m).fi⟩ :=
  congrArg₂ Fmt.mk BitVec.extractLsb'_and BitVec.extractLsb'_and

@[simp] theorem fieldSel_and : fieldSel (w &&& m) = fieldSel w &&& fieldSel m := BitVec.extractLsb'_and

@[simp] theorem fieldRsv_and : fieldRsv (w &&& m) = fieldRsv w &&& fieldRsv m := BitVec.extractLsb'_and

end

/-! ### The rows -/

/-- The fields that a command's row fixes at 0 are 0 in the word (rule R84). -/
structure Instr.FixedFieldsZero (i : Instr) (w : Word) : Prop where
  rsv : fieldRsv w = 0#8
  format : i.format = none → fieldFmt w = ⟨0#5, 0#5⟩
  sel : i.sel = none → fieldSel w = 0#8

/-- Every command stands in the row of its OPC. -/
theorem rowOf_opcode (i : Instr) :
    rowOf i.opcode.toNat (i.format.getD ⟨0#5, 0#5⟩) (i.sel.getD 0#8) = some i := by
  cases i <;> rfl

/-- What a row holds: its OPC, and the fields it takes as given. -/
theorem fields_of_rowOf {opc : BitVec 6} {f : Fmt} {sel : BitVec 8} {i : Instr}
    (h : rowOf opc.toNat f sel = some i) :
    i.opcode = opc ∧ (i.format = none ∨ i.format = some f) ∧ (i.sel = none ∨ i.sel = some sel) := by
  rw [← BitVec.toNat_inj]
  unfold rowOf at h
  split at h <;> cases h <;> simp [Instr.opcode, Instr.format, Instr.sel, *]

/-- The row of a command's OPC takes any format and SEL, and has that command's mask and match. -/
theorem exists_rowOf (j : Instr) (f : Fmt) (sel : BitVec 8) :
    ∃ i, rowOf j.opcode.toNat f sel = some i ∧ i.rowMask = j.rowMask ∧ i.rowMatch = j.rowMatch := by
  cases j <;> exact ⟨_, rfl, rfl, rfl⟩

/-- Rows with the same OPC are the same (rule R86: "the rows are disjoint because OPC differs"). -/
theorem row_eq_of_opcode {i j : Instr} (h : i.opcode = j.opcode) :
    i.rowMask = j.rowMask ∧ i.rowMatch = j.rowMatch := by
  obtain ⟨k, hk, hrow⟩ := exists_rowOf j (i.format.getD ⟨0#5, 0#5⟩) (i.sel.getD 0#8)
  rw [← h, rowOf_opcode] at hk
  cases hk
  exact hrow

/-- The match of a row is its OPC and 0 in every other field. -/
theorem rowMatch_eq (i : Instr) : i.rowMatch = packFields i.opcode ⟨0#5, 0#5⟩ 0#8 := by
  cases i <;> simp only [Instr.rowMatch, Instr.opcode] <;> decide

/-- The mask of a row keeps OPC and RSV, and the fields that the row does not take. -/
theorem rowMask_fields (i : Instr) :
    fieldOpc i.rowMask = BitVec.allOnes 6 ∧
      fieldFmt i.rowMask =
        (if i.format = none then ⟨BitVec.allOnes 5, BitVec.allOnes 5⟩ else ⟨0#5, 0#5⟩) ∧
      fieldSel i.rowMask = (if i.sel = none then BitVec.allOnes 8 else 0#8) ∧
      fieldRsv i.rowMask = BitVec.allOnes 8 := by
  cases i <;> simp only [Instr.rowMask, Instr.format, Instr.sel, reduceCtorEq, if_true, if_false] <;>
    decide

/-- A word spells a row exactly when its OPC is the row's and its fixed fields are 0 (rule R86). -/
theorem spelledBy_iff {i : Instr} {w : Word} :
    i.spelledBy w ↔ fieldOpc w = i.opcode ∧ i.FixedFieldsZero w := by
  obtain ⟨hopc, hfmt, hsel, hrsv⟩ := rowMask_fields i
  have hformat : fieldFmt (w &&& i.rowMask) = ⟨0#5, 0#5⟩ ↔ (i.format = none → fieldFmt w = ⟨0#5, 0#5⟩) := by
    rw [fieldFmt_and, hfmt]
    by_cases h : i.format = none
    · simp only [h, if_true, BitVec.and_allOnes, true_implies]
    · simp [h]
  have hselect : fieldSel (w &&& i.rowMask) = 0#8 ↔ (i.sel = none → fieldSel w = 0#8) := by
    rw [fieldSel_and, hsel]
    by_cases h : i.sel = none
    · simp only [h, if_true, BitVec.and_allOnes, true_implies]
    · simp [h]
  rw [Instr.spelledBy, rowMatch_eq, word_ext_iff, fieldOpc_packFields, fieldFmt_packFields,
    fieldSel_packFields, fieldRsv_packFields, hformat, hselect, fieldOpc_and, hopc, fieldRsv_and, hrsv,
    BitVec.and_allOnes, BitVec.and_allOnes]
  exact ⟨fun ⟨h1, h2, h3, h4⟩ => ⟨h1, h4, h2, h3⟩, fun ⟨h1, h4, h2, h3⟩ => ⟨h1, h2, h3, h4⟩⟩

/-- A word decodes to a command exactly when that is the row of its OPC and its fixed fields are 0 (rule
R89). -/
theorem decode_eq_ok_iff {w : Word} {i : Instr} :
    decode w = .ok i ↔
      rowOf (fieldOpc w).toNat (fieldFmt w) (fieldSel w) = some i ∧ i.FixedFieldsZero w := by
  unfold decode
  constructor
  · intro h
    split at h
    case h_1 => cases h
    case h_2 j hrow =>
      split_ifs at h with hrsv hformat hsel
      cases h
      exact ⟨hrow, not_not.1 hrsv, by simpa using hformat, by simpa using hsel⟩
  · rintro ⟨hrow, hrsv, hformat, hsel⟩
    simp only [hrow]
    rw [if_neg (not_not.2 hrsv), if_neg (fun h => h.2 (hformat h.1)), if_neg (fun h => h.2 (hsel h.1))]

/-- A word decodes to a command exactly when it is the command's word. -/
theorem decode_eq_ok_iff_encode {w : Word} {i : Instr} : decode w = .ok i ↔ encode i = w := by
  rw [decode_eq_ok_iff]
  constructor
  · rintro ⟨hrow, hfixed⟩
    obtain ⟨hopc, hformat, hsel⟩ := fields_of_rowOf hrow
    rw [encode, word_ext_iff, fieldOpc_packFields, fieldFmt_packFields, fieldSel_packFields,
      fieldRsv_packFields]
    refine ⟨hopc, ?_, ?_, hfixed.rsv.symm⟩
    · rcases hformat with h | h <;> simp [h, hfixed.format]
    · rcases hsel with h | h <;> simp [h, hfixed.sel]
  · rintro rfl
    rw [encode, fieldOpc_packFields, fieldFmt_packFields, fieldSel_packFields]
    refine ⟨rowOf_opcode i, fieldRsv_packFields .., fun h => ?_, fun h => ?_⟩
    · rw [fieldFmt_packFields, h, Option.getD_none]
    · rw [fieldSel_packFields, h, Option.getD_none]

/-- A word decodes to a command exactly when that is the row of its OPC and the word spells it. -/
theorem decode_eq_ok_iff_spelledBy {w : Word} {i : Instr} :
    decode w = .ok i ↔
      rowOf (fieldOpc w).toNat (fieldFmt w) (fieldSel w) = some i ∧ i.spelledBy w := by
  rw [decode_eq_ok_iff, spelledBy_iff]
  exact ⟨fun ⟨hrow, h⟩ => ⟨hrow, (fields_of_rowOf hrow).1.symm, h⟩, fun ⟨hrow, _, h⟩ => ⟨hrow, h⟩⟩

/-- Every word that spells a row decodes. -/
theorem exists_decode_of_spelledBy {w : Word} {j : Instr} (h : j.spelledBy w) : ∃ i, decode w = .ok i := by
  obtain ⟨i, hrow, hmask, hmatch⟩ := exists_rowOf j (fieldFmt w) (fieldSel w)
  refine ⟨i, decode_eq_ok_iff_spelledBy.2 ⟨?_, ?_⟩⟩
  · rwa [(spelledBy_iff.1 h).1]
  · rwa [Instr.spelledBy, hmask, hmatch]

/-- A word that spells a command spells every command of the same OPC. -/
theorem spelledBy_of_opcode {i j : Instr} {w : Word} (h : i.opcode = j.opcode) (hj : j.spelledBy w) :
    i.spelledBy w := by
  obtain ⟨hmask, hmatch⟩ := row_eq_of_opcode h
  rwa [Instr.spelledBy, hmask, hmatch]

/-! ### OPC as a number -/

/-- A word that spells a row starts with the row's OPC. -/
theorem opcode_of_spelledBy {i : Instr} {w : Word} (h : i.spelledBy w) :
    i.opcode.toNat = w.toNat / 2 ^ 26 := by
  rw [← (spelledBy_iff.1 h).1, fieldOpc_toNat]

/-- The match of a row starts with its OPC. -/
theorem opcode_of_rowMatch (i : Instr) : i.opcode.toNat = i.rowMatch.toNat / 2 ^ 26 := by
  rw [← fieldOpc_toNat, rowMatch_eq, fieldOpc_packFields]

/-- No row has a reserved OPC (rule R81). -/
theorem opcode_not_reserved (i : Instr) :
    ¬ (i.opcode.toNat = 0x00 ∨ (0x0B ≤ i.opcode.toNat ∧ i.opcode.toNat ≤ 0x0F) ∨
      (0x14 ≤ i.opcode.toNat ∧ i.opcode.toNat ≤ 0x1F) ∨ (0x24 ≤ i.opcode.toNat ∧ i.opcode.toNat ≤ 0x27) ∨
      (0x2C ≤ i.opcode.toNat ∧ i.opcode.toNat ≤ 0x3F)) := by
  cases i <;> simp only [Instr.opcode] <;> decide

end Sys2Proof

namespace Sys2Proof.Machine

/-! ### Writes to CMD -/

/-- A 32-bit write to CMD, taken by a step. -/
theorem step_writeCmd {s : State} {w : Word} {rest : List Event} (hb : s.busy = none)
    (hbus : s.bus = .write (s.cfg.fxmuxBase + 0x000) 32 w :: rest) :
    step s = writeCmd w (s.takeEvent rest) :=
  step_write hb (by decide) hbus

/-- A word that does not decode raises ILLEGAL_COMMAND. -/
theorem writeCmd_of_not_decodes {w : Word} {s : State} (hf : s.status.fault = false)
    (hw : ∀ i, decode w ≠ .ok i) : writeCmd w s = .next (s.faultedWith 0x10#8) := by
  rcases writeCmd_cases w s with ⟨hfault, _⟩ | ⟨_, _, h⟩ | ⟨_, i, hi, _⟩
  · cases hf.symm.trans hfault
  · rw [h]
    exact raise_eq .illegalCommand s
  · exact absurd hi (hw i)

/-! ### The checks of a command word -/

theorem needFormat_of_not {f : Fmt} {s : State} {k : Result} (h : ¬ f.Legal) :
    needFormat f s k = .next (s.faultedWith 0x11#8) := by
  rw [needFormat, if_neg h]
  exact raise_eq .illegalFormat s

theorem needMean_of_not {m : BitVec 8} {s : State} {k : Result} (h : ¬ m.toNat < s.cfg.meanCount) :
    needMean m s k = .next (s.faultedWith 0x15#8) := by
  rw [needMean, if_neg h]
  exact raise_eq .badSelect s

theorem needRdo_of_not {e : BitVec 8} {s : State} {k : Result} (h : ¬ e.toNat < s.cfg.rdoCount) :
    needRdo e s k = .next (s.faultedWith 0x15#8) := by
  rw [needRdo, if_neg h]
  exact raise_eq .badSelect s

end Sys2Proof.Machine

namespace Sys2Proof.Proofs
open Sys2Proof.Machine

/-- Settles O1: `decode_eq_ok_iff_encode`, both ways. -/
theorem decodeAndEncodeAgree : Obligations.DecodeAndEncodeAgree :=
  ⟨fun _ => decode_eq_ok_iff_encode.2 rfl, fun _ _ => decode_eq_ok_iff_encode.1⟩

/-- Settles O2: decoding and the table agree on the fixed fields (`decode_eq_ok_iff_spelledBy`), and OPC names
the row. -/
theorem decodeAgreesWithOpcodeTable : Obligations.DecodeAgreesWithOpcodeTable := by
  have hspelled (w : Word) (i : Instr) (h : decode w = .ok i) : i.spelledBy w :=
    (decode_eq_ok_iff_spelledBy.1 h).2
  refine ⟨fun w => ⟨fun ⟨i, hi⟩ => ⟨i, hspelled w i hi⟩, fun ⟨j, hj⟩ => exists_decode_of_spelledBy hj⟩,
    fun w i j hi hj => ?_, hspelled⟩
  have hopc : i.opcode = j.opcode :=
    (spelledBy_iff.1 (hspelled w i hi)).1.symm.trans (spelledBy_iff.1 hj).1
  rw [rowMatch_eq, rowMatch_eq, hopc]

/-- Settles O5: a word that spells no row does not decode; a word that spells a row has the row's OPC, and then
spells every command of that OPC. -/
theorem unmatchedWordIsIllegal : Obligations.UnmatchedWordIsIllegal := by
  refine ⟨?illegal, ?reserved, ?fixedField⟩
  case illegal =>
    intro s w rest hb hf hbus hw
    have hdecode (i : Instr) : decode w ≠ .ok i := fun hi => hw i (decode_eq_ok_iff_spelledBy.1 hi).2
    rw [step_writeCmd hb hbus, writeCmd_of_not_decodes (s := s.takeEvent rest) hf hdecode]
    simp [State.faultedWith, Status.faulted, hf, State.takeEvent]
  case reserved =>
    rintro w _ rfl hreserved i hi
    rw [← opcode_of_spelledBy hi] at hreserved
    exact opcode_not_reserved i hreserved
  case fixedField =>
    intro w i hopc hi j hj
    refine hi (spelledBy_of_opcode (BitVec.eq_of_toNat_eq ?_) hj)
    rw [opcode_of_rowMatch, ← hopc, opcode_of_spelledBy hj]

/-- Settles O7: every command that takes a format checks it first, and then its SEL, if it takes one. -/
theorem formatAndSelectChecksFault : Obligations.FormatAndSelectChecksFault := by
  intro i s
  refine ⟨fun hformat => ?format, fun hformat hselect => ?select⟩
  case format =>
    cases i with
    | fxpF2q f | fxpQ2f f | fxpI2q f | fxpQ2i f | fxpMul f | fxpDiv f | fxpOne f =>
      exact needFormat_of_not hformat
    | meanInit f m => exact needFormat_of_not hformat
    | _ => exact absurd trivial hformat
  case select =>
    cases i with
    | meanInit f m => exact (needFormat_of hformat).trans (needMean_of_not hselect)
    | meanAdd m | meanReset m | meanCalc m => exact needMean_of_not hselect
    | rdoInit e | rdoAdvance e | rdoGet e | rdoEnable e => exact needRdo_of_not hselect
    | _ => exact absurd trivial hselect

/-- Settles O3: each word is the command's word. -/
theorem exampleWordsDecode : Obligations.ExampleWordsDecode := by
  simp only [Obligations.ExampleWordsDecode, decode_eq_ok_iff_encode]
  decide

end Sys2Proof.Proofs
end

section
/-! PROOFS. The integer commands of the fixed-point unit (40_fixed_point.md rules R101, R104 to R110): their words
and checks, and the arithmetic of rule R10 (clamp, floor, truncation) as the rules state it. -/

namespace Sys2Proof.Machine

/-! ### Words as numbers -/

/-- A concatenation as a number. -/
theorem append_toNat {v w : Nat} (hi : BitVec v) (lo : BitVec w) :
    (hi ++ lo).toNat = hi.toNat * 2 ^ w + lo.toNat := by
  rw [BitVec.toNat_append, ← Nat.shiftLeft_add_eq_or_of_lt lo.isLt, Nat.shiftLeft_eq]

/-- The command word as a number (30_encoding.md rule R80). -/
theorem packFields_eq_ofNat (opc : BitVec 6) (f : Fmt) (sel : BitVec 8) :
    packFields opc f sel = BitVec.ofNat 32
      (opc.toNat * 2 ^ 26 + f.fp.toNat * 2 ^ 21 + f.fi.toNat * 2 ^ 16 + sel.toNat * 2 ^ 8) := by
  apply BitVec.eq_of_toNat_eq
  simp only [packFields, append_toNat, BitVec.toNat_ofNat]
  omega

/-- The word of a command that takes a format and no SEL. -/
theorem packFields_format (opc : BitVec 6) (f : Fmt) :
    packFields opc f 0#8 =
      BitVec.ofNat 32 (opc.toNat * 2 ^ 26 + f.fp.toNat * 2 ^ 21 + f.fi.toNat * 2 ^ 16) := by
  rw [packFields_eq_ofNat, BitVec.toNat_ofNat, Nat.zero_mod, Nat.zero_mul, Nat.add_zero]

/-- A legal format's word, as FXP_INIT answers it (rule R101). -/
theorem formatWord_toNat {p i : Nat} (h : p + i ≤ 31) : (formatWord p i).toNat = p * 2 ^ 21 + i * 2 ^ 16 := by
  rw [formatWord, BitVec.toNat_ofNat, Nat.mod_eq_of_lt (by omega)]

/-! ### The cases of a format request (rule R101) -/

theorem initFormat_overBudget {rp ri : Nat} (h : 32 ≤ rp + ri) : initFormat rp ri = ((16, 15), true) := by
  rw [initFormat, if_neg (by omega), if_pos (by omega)]

theorem initFormat_integerOnly {ri : Nat} (h0 : 0 < ri) (h : ri ≤ 31) :
    initFormat 0 ri = ((31 - ri, ri), false) := by
  rw [initFormat, if_neg (by omega), if_neg (by omega), if_pos rfl, show 32 - ri - 1 = 31 - ri by omega]

theorem initFormat_precisionOnly {rp : Nat} (h0 : 0 < rp) (h : rp ≤ 31) :
    initFormat rp 0 = ((rp, 31 - rp), false) := by
  rw [initFormat, if_neg (by omega), if_neg (by omega), if_neg (by omega), if_pos rfl,
    show 32 - rp - 1 = 31 - rp by omega]

theorem initFormat_both {rp ri : Nat} (hp : 0 < rp) (hi : 0 < ri) (h : rp + ri ≤ 31) :
    initFormat rp ri = ((rp, ri), false) := by
  rw [initFormat, if_neg (by omega), if_neg (by omega), if_neg (by omega), if_neg (by omega)]

/-- The format answered is legal (30_encoding.md rule R82). -/
theorem initFormat_legal (rp ri : Nat) : (initFormat rp ri).1.1 + (initFormat rp ri).1.2 ≤ 31 := by
  unfold initFormat
  split_ifs <;> dsimp only <;> omega

/-! ### The arithmetic of rule R10 -/

/-- A signed word's magnitude. -/
theorem natAbs_toInt_le (a : Word) : a.toInt.natAbs ≤ 2 ^ 31 := by
  have hlo : -2147483648 ≤ a.toInt := BitVec.le_toInt a
  have hhi : a.toInt < 2147483648 := BitVec.toInt_lt
  omega

/-- A number in the signed 32-bit range is the value of its encoding. -/
theorem toInt_u32 {v : Int} (hlo : -2147483648 ≤ v) (hhi : v ≤ 2147483647) : (u32 v).toInt = v :=
  BitVec.toInt_ofInt_eq_self (by decide) hlo (by omega)

/-- `sat32` and rule R111's clamp are the same. -/
theorem clamped_sat32 (x : Int) : Clamped x (u32 (sat32 x)) := by
  have hlo : -2147483648 ≤ sat32 x := by unfold sat32; split_ifs <;> omega
  have hhi : sat32 x ≤ 2147483647 := by unfold sat32; split_ifs <;> omega
  rw [Clamped, toInt_u32 hlo hhi]
  rfl

/-- `sat32` leaves a number in its range alone. -/
theorem sat32_eq_self {x : Int} (hlo : -2147483648 ≤ x) (hhi : x ≤ 2147483647) : sat32 x = x := by
  rw [sat32, if_neg (by omega), if_neg (by omega)]

/-- `floor_div` answers the greatest integer not above the quotient. -/
theorem floorDivPow_bounds (a : Int) (n : Nat) :
    floorDivPow a n * 2 ^ n ≤ a ∧ a < (floorDivPow a n + 1) * 2 ^ n := by
  have hpos : (0 : Int) < 2 ^ n := by positivity
  rw [floorDivPow, Int.fdiv_eq_ediv_of_nonneg _ hpos.le]
  exact ⟨Int.ediv_mul_le a hpos.ne', Int.lt_ediv_add_one_mul_self a hpos⟩

/-- `floor_div` of a signed word is a signed word. -/
theorem floorDivPow_toInt_bounds (a : Word) (n : Nat) :
    -2147483648 ≤ floorDivPow a.toInt n ∧ floorDivPow a.toInt n ≤ 2147483647 := by
  have hpos : (0 : Int) < 2 ^ n := by positivity
  have hlo : -2147483648 ≤ a.toInt := BitVec.le_toInt a
  have hhi : a.toInt < 2147483648 := BitVec.toInt_lt
  rw [floorDivPow, Int.fdiv_eq_ediv_of_nonneg _ hpos.le]
  constructor
  · rw [Int.le_ediv_iff_mul_le hpos]
    nlinarith
  · apply Int.le_of_lt_add_one
    rw [Int.ediv_lt_iff_lt_mul hpos]
    nlinarith

/-- `trunc_div` rounds toward zero: on magnitudes it is the division of natural numbers, and the sign is that of
the quotient. -/
theorem truncDiv_roundedToZero (num : Int) {den : Int} (hden : den ≠ 0) :
    RoundedToZero (truncDiv num den) num den := by
  have habs : |truncDiv num den| = |num| / |den| := by
    rw [truncDiv, Int.abs_eq_natAbs, Int.natAbs_tdiv, Int.abs_eq_natAbs, Int.abs_eq_natAbs]
    rfl
  have hpos : 0 < |den| := abs_pos.2 hden
  rw [RoundedToZero, habs]
  refine ⟨Int.ediv_mul_le _ hpos.ne', Int.lt_ediv_add_one_mul_self _ hpos, ?sign⟩
  case sign =>
    rw [← Int.sign_nonneg_iff, Int.sign_mul, Int.sign_mul, truncDiv, Int.sign_tdiv]
    split_ifs
    · rw [zero_mul]
    · exact mul_self_nonneg _

/-- Truncation loses less than one. -/
theorem truncDiv_error (num : Int) {den : Int} (hden : den ≠ 0) : |truncDiv num den * den - num| < |den| := by
  have hmod : |num.tmod den| < |den| := by
    rw [Int.abs_eq_natAbs, Int.abs_eq_natAbs, Int.natAbs_tmod]
    exact_mod_cast Nat.mod_lt _ (Int.natAbs_pos.2 hden)
  have herr : truncDiv num den * den - num = -num.tmod den :=
    sub_eq_iff_eq_add'.2 (eq_add_neg_of_add_eq (Int.tdiv_mul_add_tmod num den))
  rwa [herr, abs_neg]

end Sys2Proof.Machine

namespace Sys2Proof.Proofs
open Sys2Proof.Machine

/-- A command that acts on nothing but registers makes the checks of its word and then those of its operands. -/
theorem checksFirst_of_instanceReady {i : Instr} (hready : ∀ s, i.InstanceReady s) (s : State) :
    i.ChecksFirst s :=
  ⟨(formatAndSelectChecksFault i s).1, (formatAndSelectChecksFault i s).2,
    fun _ hnot => absurd (hready s) hnot, unwrittenOperandFaults i s⟩

/-- Settles O11: each clause is a case of `initFormat`, and the answer is legal in all of them. -/
theorem fxpInitResult : Obligations.FxpInitResult := by
  refine ⟨⟨rfl, checksFirst_of_instanceReady fun _ => trivial⟩, fun s a b ha hb => ?_⟩
  have hlegal := initFormat_legal a.toNat b.toNat
  refine ⟨_, _, _, _, (withA_some ha).trans (withB_some hb), formatWord_toNat hlegal, hlegal,
    ?nothing, ?overBudget, ?integerOnly, ?precisionOnly, ?both⟩
  case nothing =>
    rintro ⟨ha0, hb0⟩
    rw [ha0, hb0]
    exact ⟨rfl, rfl, rfl⟩
  case overBudget =>
    intro h
    rw [initFormat_overBudget h]
    exact ⟨rfl, rfl, rfl⟩
  case integerOnly =>
    rintro ⟨ha0, hb0, h⟩
    rw [ha0, initFormat_integerOnly hb0 h]
    exact ⟨rfl, rfl, rfl⟩
  case precisionOnly =>
    rintro ⟨hb0, ha0, h⟩
    rw [hb0, initFormat_precisionOnly ha0 h]
    exact ⟨rfl, rfl, rfl⟩
  case both =>
    rintro ⟨ha0, hb0, h⟩
    rw [initFormat_both ha0 hb0 h]
    exact ⟨rfl, rfl, rfl⟩

/-- Settles O16: I2Q and ONE saturate the exact product (`clamped_sat32`); the floor of Q2I fits. -/
theorem fxpIntegerConversionResults : Obligations.FxpIntegerConversionResults := by
  refine ⟨fun f => ⟨?i2qWord, ?q2iWord, ?oneWord⟩, fun s f hf => ⟨fun a ha => ?i2q, fun a ha => ?q2i, ?one⟩⟩
  case i2qWord => exact ⟨packFields_format 0x04#6 f, checksFirst_of_instanceReady fun _ => trivial⟩
  case q2iWord => exact ⟨packFields_format 0x05#6 f, checksFirst_of_instanceReady fun _ => trivial⟩
  case oneWord => exact ⟨packFields_format 0x0A#6 f, checksFirst_of_instanceReady fun _ => trivial⟩
  case i2q => exact ⟨_, (needFormat_of hf).trans (withA_some ha), clamped_sat32 _⟩
  case q2i =>
    obtain ⟨hlo, hhi⟩ := floorDivPow_toInt_bounds a f.fp.toNat
    refine ⟨u32 (floorDivPow a.toInt f.fp.toNat), (needFormat_of hf).trans (withA_some ha), ?_⟩
    rw [toInt_u32 hlo hhi]
    exact floorDivPow_bounds a.toInt f.fp.toNat
  case one => exact ⟨_, needFormat_of hf, clamped_sat32 _⟩

/-- Settles O17: the exact sum and difference, through `clamped_sat32`. -/
theorem fxpAddSubResult : Obligations.FxpAddSubResult := by
  refine ⟨⟨rfl, checksFirst_of_instanceReady fun _ => trivial⟩,
    ⟨rfl, checksFirst_of_instanceReady fun _ => trivial⟩, fun s a b ha hb => ⟨?add, ?sub⟩⟩
  case add => exact ⟨_, (withA_some ha).trans (withB_some hb), clamped_sat32 _⟩
  case sub => exact ⟨_, (withA_some ha).trans (withB_some hb), clamped_sat32 _⟩

/-- Settles O18: the floor of the exact product (`floorDivPow_bounds`), then the clamp. -/
theorem fxpMulResult : Obligations.FxpMulResult := by
  refine ⟨fun f => ⟨packFields_format 0x08#6 f, checksFirst_of_instanceReady fun _ => trivial⟩,
    fun s f a b hf ha hb => ?_⟩
  obtain ⟨hle, hlt⟩ := floorDivPow_bounds (a.toInt * b.toInt) f.fp.toNat
  exact ⟨_, _, (needFormat_of hf).trans <| (withA_some ha).trans (withB_some hb), hle, hlt, clamped_sat32 _⟩

/-- Settles O19: a divisor is 0 exactly when its word is, and the quotient is truncated
(`truncDiv_roundedToZero`), then clamped. -/
theorem fxpDivResult : Obligations.FxpDivResult := by
  refine ⟨fun f => ⟨packFields_format 0x09#6 f, checksFirst_of_instanceReady fun _ => trivial⟩,
    fun s f a b hf ha hb => ?_⟩
  refine ⟨fun hzero => ?zero, fun hne => ?quotient⟩
  case zero =>
    subst hzero
    exact ((needFormat_of hf).trans <| (withA_some ha).trans (withB_some hb)).trans (raise_eq .divisionByZero s)
  case quotient =>
    have hb0 : s32 b ≠ 0 := fun h => hne (BitVec.toInt_inj.1 h)
    exact ⟨_, _, ((needFormat_of hf).trans <| (withA_some ha).trans (withB_some hb)).trans (if_neg hb0),
      truncDiv_roundedToZero _ hb0, clamped_sat32 _⟩

end Sys2Proof.Proofs
end

section
/-! PROOFS. The commands between floats and Q numbers (40_fixed_point.md rules R102, R103, log 13). Three facts carry
the proofs: truncation stays within the clamp range; the significand that `rne32` forms is the rounded quotient,
ties to even; and every float either lies below a power of two or on the grid of the floats above it. -/

namespace Sys2Proof.Machine

/-! ### Rounding to the nearest -/

/-- `n` is the integer nearest to `num / den`, and even if another one is as near. -/
def RoundedToEven (n num den : Int) : Prop :=
  2 * |n * den - num| ≤ den ∧ (2 * |n * den - num| = den → n % 2 = 0)

theorem RoundedToEven.of_exact (n : Int) {den : Int} (hden : 0 < den) : RoundedToEven n (n * den) den := by
  rw [RoundedToEven, sub_self, abs_zero]
  exact ⟨by omega, fun h => by omega⟩

/-- A common factor does not change the quotient. -/
theorem RoundedToEven.mul_right {n num den c : Int} (h : RoundedToEven n num den) (hc : 0 < c) :
    RoundedToEven n (num * c) (den * c) := by
  have hscale : 2 * |n * (den * c) - num * c| = 2 * |n * den - num| * c := by
    rw [← mul_assoc, ← sub_mul, abs_mul, abs_of_pos hc, mul_assoc]
  rw [RoundedToEven, hscale]
  exact ⟨mul_le_mul_of_nonneg_right h.1 hc.le, fun heq => h.2 (mul_right_cancel₀ hc.ne' heq)⟩

/-- Any other integer is at least as far, and as far only from an even one: the two distances make up at least
one `den`. -/
theorem RoundedToEven.nearest {n num den t : Int} (h : RoundedToEven n num den) (ht : t ≠ n) :
    |n * den - num| ≤ |t * den - num| ∧ (|t * den - num| = |n * den - num| → n % 2 = 0) := by
  obtain ⟨hle, heven⟩ := h
  have hden : 0 ≤ den := by have := abs_nonneg (n * den - num); omega
  have hapart : den ≤ |t * den - n * den| := by
    rw [← sub_mul, abs_mul, abs_of_nonneg hden]
    exact le_mul_of_one_le_left hden (Int.one_le_abs (sub_ne_zero.2 ht))
  have htriangle : |t * den - n * den| ≤ |t * den - num| + |n * den - num| := by
    rw [abs_sub_comm (n * den) num]
    exact abs_sub_le _ _ _
  exact ⟨by omega, fun heq => heven (by omega)⟩

theorem RoundedToEven.le {n num den : Int} (h : RoundedToEven n num den) (t : Int) :
    |n * den - num| ≤ |t * den - num| := by
  by_cases ht : t = n
  · rw [ht]
  · exact (h.nearest ht).1

/-- A value below a multiple of `den` that is itself below `num` is farther off. -/
theorem RoundedToEven.lt_of_below {n num den v k : Int} (h : RoundedToEven n num den) (hv : v < k * den)
    (hk : k * den ≤ num) : |n * den - num| < |v - num| := by
  have hle := h.le k
  rw [abs_of_nonpos (sub_nonpos.2 hk)] at hle
  rw [abs_of_nonpos (sub_nonpos.2 (hv.le.trans hk))]
  omega

/-- `roundEven` is the quotient or one more. -/
theorem roundEven_bounds (m sh : Nat) : m / 2 ^ sh ≤ roundEven m sh ∧ roundEven m sh ≤ m / 2 ^ sh + 1 := by
  simp only [roundEven]
  split <;> omega

/-- `roundEven` rounds to the nearest, ties to even. -/
theorem roundEven_roundedToEven (m sh : Nat) : RoundedToEven (roundEven m sh) m (2 ^ sh : Nat) := by
  have hdiv := Nat.div_add_mod' m (2 ^ sh)
  have hmod : m % 2 ^ sh < 2 ^ sh := Nat.mod_lt _ (by positivity)
  simp only [RoundedToEven, roundEven]
  generalize m / 2 ^ sh = q at *
  generalize m % 2 ^ sh = r at *
  generalize 2 ^ sh = d at *
  subst hdiv
  split
  case isTrue hup =>
    have herr : |((q + 1 : Nat) : Int) * d - (q * d + r : Nat)| = d - r := by
      rw [abs_of_nonneg] <;> push_cast <;> linarith
    rw [herr]
    omega
  case isFalse hdown =>
    have herr : |(q : Int) * d - (q * d + r : Nat)| = r := by
      rw [abs_of_nonpos] <;> push_cast <;> linarith
    rw [herr]
    omega

/-! ### The significand -/

/-- The 24-bit significand that `rne32` forms of a magnitude: exact up to 24 bits, rounded beyond. -/
def significand (m : Nat) : Nat := if m.log2 ≤ 23 then m * 2 ^ (23 - m.log2) else roundEven m (m.log2 - 23)

theorem significand_of_le {m : Nat} (h : m.log2 ≤ 23) : significand m = m * 2 ^ (23 - m.log2) := if_pos h

theorem significand_of_lt {m : Nat} (h : 23 < m.log2) : significand m = roundEven m (m.log2 - 23) :=
  if_neg (by omega)

/-- It has its leading bit at 23, or has been rounded up to the next power of two. -/
theorem significand_bounds {m : Nat} (hm : m ≠ 0) : 2 ^ 23 ≤ significand m ∧ significand m ≤ 2 ^ 24 := by
  have hlo : 2 ^ m.log2 ≤ m := Nat.log2_self_le hm
  have hhi : m < 2 ^ (m.log2 + 1) := Nat.lt_log2_self
  rcases Nat.lt_or_ge 23 m.log2 with hk | hk
  · have hqlo : 2 ^ 23 ≤ m / 2 ^ (m.log2 - 23) := by
      rw [Nat.le_div_iff_mul_le (by positivity), ← pow_add]
      rwa [show 23 + (m.log2 - 23) = m.log2 by omega]
    have hqhi : m / 2 ^ (m.log2 - 23) < 2 ^ 24 := by
      rw [Nat.div_lt_iff_lt_mul (by positivity), ← pow_add]
      rwa [show 24 + (m.log2 - 23) = m.log2 + 1 by omega]
    have hround := roundEven_bounds m (m.log2 - 23)
    rw [significand_of_lt hk]
    omega
  · rw [significand_of_le hk]
    constructor
    · calc 2 ^ 23 = 2 ^ m.log2 * 2 ^ (23 - m.log2) := by rw [← pow_add, Nat.add_sub_cancel' hk]
        _ ≤ m * 2 ^ (23 - m.log2) := Nat.mul_le_mul_right _ hlo
    · calc m * 2 ^ (23 - m.log2) ≤ 2 ^ (m.log2 + 1) * 2 ^ (23 - m.log2) := Nat.mul_le_mul_right _ hhi.le
        _ = 2 ^ 24 := by rw [← pow_add, show m.log2 + 1 + (23 - m.log2) = 24 by omega]

/-- Up to 24 bits the significand, at its weight, is the magnitude. -/
theorem significand_exact {m : Nat} (h : m.log2 ≤ 23) :
    (significand m : Int) * 2 ^ (m.log2 + 126) = m * 2 ^ 149 := by
  rw [significand_of_le h, Nat.cast_mul, Nat.cast_pow, Nat.cast_ofNat, mul_assoc, ← pow_add,
    show 23 - m.log2 + (m.log2 + 126) = 149 by omega]

/-- The significand is the magnitude, `m * 2^149` in units of `2^-149`, rounded at its own weight. -/
theorem significand_roundedToEven (m : Nat) :
    RoundedToEven (significand m) (m * 2 ^ 149) (2 ^ (m.log2 + 126)) := by
  rcases Nat.lt_or_ge 23 m.log2 with hk | hk
  · have hweight : (2 : Int) ^ (m.log2 + 126) = (2 ^ (m.log2 - 23) : Nat) * 2 ^ 149 := by
      rw [Nat.cast_pow, Nat.cast_ofNat, ← pow_add, show m.log2 - 23 + 149 = m.log2 + 126 by omega]
    rw [significand_of_lt hk, hweight]
    exact (roundEven_roundedToEven m _).mul_right (by positivity)
  · rw [← significand_exact hk]
    exact .of_exact _ (by positivity)

/-- The lowest significand, at its weight, is not above the magnitude. -/
theorem leading_bit_le_magnitude {m : Nat} (hm : m ≠ 0) : (2 : Int) ^ 23 * 2 ^ (m.log2 + 126) ≤ m * 2 ^ 149 := by
  have hlog : 2 ^ m.log2 ≤ m := Nat.log2_self_le hm
  rw [← pow_add, show 23 + (m.log2 + 126) = m.log2 + 149 by omega, pow_add]
  exact mul_le_mul_of_nonneg_right (by exact_mod_cast hlog) (by positivity)

/-! ### Binary32 values -/

/-- The value of a normal pattern given by its sign, exponent and fraction as numbers. -/
theorem f32Decode_normal (sg : BitVec 1) {e fr : Nat} (he0 : 0 < e) (he : e < 255) (hfr : fr < 2 ^ 23) :
    f32Decode (BitVec.ofNat 32 (sg.toNat * 2 ^ 31 + (e * 2 ^ 23 + fr))) =
      .finite ((-1) ^ sg.toNat * ((2 ^ 23 + fr : Nat) * 2 ^ (e - 1))) := by
  have hword : BitVec.ofNat 32 (sg.toNat * 2 ^ 31 + (e * 2 ^ 23 + fr)) =
      sg ++ BitVec.ofNat 8 e ++ BitVec.ofNat 23 fr := by
    apply BitVec.eq_of_toNat_eq
    simp only [append_toNat, BitVec.toNat_ofNat]
    omega
  have he255 : BitVec.ofNat 8 e ≠ 255#8 := by simp [← BitVec.toNat_inj]; omega
  have hezero : BitVec.ofNat 8 e ≠ 0#8 := by simp [← BitVec.toNat_inj]; omega
  rw [hword, f32Decode_fields, if_neg he255, if_neg hezero, BitVec.toNat_ofNat, BitVec.toNat_ofNat,
    Nat.mod_eq_of_lt hfr, Nat.mod_eq_of_lt (by omega)]
  push_cast
  rfl

/-- A significand that has been rounded up to `2^24` carries into the exponent, and the value is the same. -/
theorem f32Decode_significand (sg : BitVec 1) {e sig : Nat} (he0 : 0 < e) (he : e < 254) (hlo : 2 ^ 23 ≤ sig)
    (hhi : sig ≤ 2 ^ 24) :
    f32Decode (BitVec.ofNat 32 (sg.toNat * 2 ^ 31 + (e * 2 ^ 23 + (sig - 2 ^ 23)))) =
      .finite ((-1) ^ sg.toNat * (sig * 2 ^ (e - 1))) := by
  rcases hhi.lt_or_eq with hlt | rfl
  · rw [f32Decode_normal sg he0 (by omega) (by omega), Nat.add_sub_cancel' hlo]
  · rw [show e * 2 ^ 23 + (2 ^ 24 - 2 ^ 23) = (e + 1) * 2 ^ 23 + 0 by omega,
      f32Decode_normal sg (by omega) (by omega) (by omega), show e + 1 - 1 = e - 1 + 1 by omega, pow_succ]
    push_cast
    ring_nf

/-- The magnitude of a finite float is a significand below `2^24` times a power of two. -/
theorem natAbs_of_f32Decode {w : Word} {h : Int} (hw : f32Decode w = .finite h) :
    ∃ sig x : Nat, sig < 2 ^ 24 ∧ h.natAbs = sig * 2 ^ x := by
  have hfrac : (w.extractLsb' 0 23).toNat < 2 ^ 23 := BitVec.isLt _
  simp only [f32Decode] at hw
  generalize (w.extractLsb' 0 23).toNat = fr at *
  generalize (w.extractLsb' 23 8).toNat = e at *
  split at hw
  case isTrue => split at hw <;> cases hw
  case isFalse =>
    cases hw
    rw [apply_ite Int.natAbs, Int.natAbs_neg, ite_self, Int.natAbs_natCast]
    split
    case isTrue => exact ⟨fr, 0, by omega, by omega⟩
    case isFalse => exact ⟨2 ^ 23 + fr, e - 1, by omega, rfl⟩

/-- Every float lies below `2^(23 + x)` or on the grid of step `2^x`. -/
theorem float_below_or_on_grid {w : Word} {h : Int} (hw : f32Decode w = .finite h) (x : Nat) :
    |h| < 2 ^ (23 + x) ∨ 2 ^ x ∣ h := by
  obtain ⟨sig, y, hsig, hh⟩ := natAbs_of_f32Decode hw
  rcases Nat.lt_or_ge y x with hy | hy
  · left
    have hlt : h.natAbs < 2 ^ (23 + x) := by
      calc h.natAbs = sig * 2 ^ y := hh
        _ < 2 ^ 24 * 2 ^ y := Nat.mul_lt_mul_of_pos_right hsig (by positivity)
        _ ≤ 2 ^ (23 + x) := by rw [← pow_add]; exact Nat.pow_le_pow_right (by omega) (by omega)
    rw [Int.abs_eq_natAbs]
    exact_mod_cast hlt
  · right
    have hdvd : 2 ^ x ∣ h.natAbs := hh ▸ (pow_dvd_pow 2 hy).mul_left sig
    rw [← Int.dvd_natAbs]
    exact_mod_cast hdvd

/-! ### The float of a Q number -/

/-- The value of `rne32`, in units of `2^-149`. -/
def q2fValue (a : Int) (p : Nat) : Int :=
  a.sign * (significand a.natAbs * 2 ^ (a.natAbs.log2 + 126 - p))

theorem rne32_zero (p : Nat) : rne32 0 p = 0#32 := by simp [rne32]

/-- The pattern `rne32` answers for a nonzero quotient, by sign, exponent and significand. -/
theorem rne32_of_ne_zero {a : Int} (ha : a ≠ 0) (p : Nat) :
    rne32 a p = BitVec.ofNat 32 ((flagBit (decide (a < 0))).toNat * 2 ^ 31 +
      ((a.natAbs.log2 + 127 - p) * 2 ^ 23 + (significand a.natAbs - 2 ^ 23))) := by
  have hm : a.natAbs ≠ 0 := Int.natAbs_ne_zero.2 ha
  simp only [rne32, if_neg hm, significand]
  split_ifs with hneg <;> simp [flagBit, hneg]

/-- The sign bit of a nonzero integer as a factor. -/
theorem neg_one_pow_flagBit {a : Int} (ha : a ≠ 0) : (-1) ^ (flagBit (decide (a < 0))).toNat = a.sign := by
  rcases lt_or_gt_of_ne ha with h | h
  · simp [flagBit, h, Int.sign_eq_neg_one_of_neg h]
  · simp [flagBit, not_lt.2 h.le, Int.sign_eq_one_of_pos h]

/-- `rne32` answers a finite float. -/
theorem f32Decode_rne32 {a : Int} {p : Nat} (ha : a.natAbs ≤ 2 ^ 31) (hp : p ≤ 31) :
    f32Decode (rne32 a p) = .finite (q2fValue a p) := by
  by_cases ha0 : a = 0
  · subst ha0
    rw [rne32_zero, q2fValue, Int.sign_zero, zero_mul]
    rfl
  · have hm : a.natAbs ≠ 0 := Int.natAbs_ne_zero.2 ha0
    have hlog : a.natAbs.log2 < 32 := (Nat.log2_lt hm).2 (by omega)
    obtain ⟨hlo, hhi⟩ := significand_bounds hm
    rw [rne32_of_ne_zero ha0, f32Decode_significand _ (by omega) (by omega) hlo hhi, neg_one_pow_flagBit ha0,
      q2fValue, show a.natAbs.log2 + 127 - p - 1 = a.natAbs.log2 + 126 - p by omega]

/-- The pattern's last bit is the significand's. -/
theorem rne32_getLsbD_zero {a : Int} (p : Nat) (heven : significand a.natAbs % 2 = 0) :
    (rne32 a p).getLsbD 0 = false := by
  by_cases ha : a = 0
  · rw [ha, rne32_zero]
    rfl
  have hlo := (significand_bounds (Int.natAbs_ne_zero.2 ha)).1
  rw [rne32_of_ne_zero ha, BitVec.getLsbD_ofNat, Nat.testBit_zero]
  simp only [Nat.zero_lt_succ, decide_true, Bool.true_and, decide_eq_false_iff_not]
  omega

theorem sign_mul_sign {a : Int} (ha : a ≠ 0) : a.sign * a.sign = 1 := by
  rw [← Int.sign_mul, Int.sign_eq_one_of_pos (mul_self_pos.2 ha)]

/-- The distance of a value from `a / 2^p`, seen from the positive side. -/
theorem distance_eq {a : Int} (ha : a ≠ 0) (v : Int) (p : Nat) :
    |v * 2 ^ p - a * 2 ^ 149| = |a.sign * v * 2 ^ p - a.natAbs * 2 ^ 149| := by
  have hfactor : v * 2 ^ p - a * 2 ^ 149 = a.sign * (a.sign * v * 2 ^ p - a.natAbs * 2 ^ 149) := by
    linear_combination (-(v * 2 ^ p)) * sign_mul_sign ha + 2 ^ 149 * Int.sign_mul_natAbs a
  rw [hfactor, abs_mul, Int.abs_sign_of_ne_zero ha, one_mul]

/-- The weight of the significand's last bit, scaled by `2^p`. -/
theorem weight_mul_pow (k : Nat) {p : Nat} (hp : p ≤ 31) : (2 : Int) ^ (k + 126 - p) * 2 ^ p = 2 ^ (k + 126) := by
  rw [← pow_add, Nat.sub_add_cancel (by omega)]

/-- Scaled by `2^p`, the answer is the significand at its weight. -/
theorem q2fValue_mul_pow (a : Int) {p : Nat} (hp : p ≤ 31) :
    q2fValue a p * 2 ^ p = a.sign * (significand a.natAbs * 2 ^ (a.natAbs.log2 + 126)) := by
  rw [q2fValue, mul_assoc, mul_assoc, weight_mul_pow _ hp]

/-- Up to 24 bits the answer is exact. -/
theorem q2fValue_exact {a : Int} {p : Nat} (hp : p ≤ 31) (h : |a| < 2 ^ 24) :
    q2fValue a p * 2 ^ p = a * 2 ^ 149 := by
  have hlt : a.natAbs < 2 ^ 24 := by
    rw [Int.abs_eq_natAbs] at h
    exact_mod_cast h
  have hlog : a.natAbs.log2 ≤ 23 := by
    by_cases hm : a.natAbs = 0
    · rw [hm]
      decide
    · exact Nat.le_of_lt_succ ((Nat.log2_lt hm).2 hlt)
  rw [q2fValue_mul_pow a hp, significand_exact hlog, ← mul_assoc, Int.sign_mul_natAbs]

/-- The same distance for the answer: the rounding error of the significand. -/
theorem distance_q2fValue {a : Int} (ha : a ≠ 0) {p : Nat} (hp : p ≤ 31) :
    |q2fValue a p * 2 ^ p - a * 2 ^ 149| =
      |(significand a.natAbs : Int) * 2 ^ (a.natAbs.log2 + 126) - a.natAbs * 2 ^ 149| := by
  rw [distance_eq ha, mul_assoc, q2fValue_mul_pow a hp, ← mul_assoc, sign_mul_sign ha, one_mul]

/-- A float below `2^23` steps of the answer's grid is farther off than the answer. -/
theorem distance_lt_of_below {a h : Int} (ha : a ≠ 0) {p : Nat} (hp : p ≤ 31)
    (hbelow : |h| < 2 ^ (23 + (a.natAbs.log2 + 126 - p))) :
    |q2fValue a p * 2 ^ p - a * 2 ^ 149| < |h * 2 ^ p - a * 2 ^ 149| := by
  have hlt : a.sign * h * 2 ^ p < 2 ^ 23 * 2 ^ (a.natAbs.log2 + 126) := by
    have habs : a.sign * h ≤ |h| := by
      rw [← one_mul |h|, ← Int.abs_sign_of_ne_zero ha, ← abs_mul]
      exact le_abs_self _
    calc a.sign * h * 2 ^ p ≤ |h| * 2 ^ p := mul_le_mul_of_nonneg_right habs (by positivity)
      _ < 2 ^ (23 + (a.natAbs.log2 + 126 - p)) * 2 ^ p := mul_lt_mul_of_pos_right hbelow (by positivity)
      _ = 2 ^ 23 * 2 ^ (a.natAbs.log2 + 126) := by rw [pow_add, mul_assoc, weight_mul_pow _ hp]
  rw [distance_q2fValue ha hp, distance_eq ha]
  exact (significand_roundedToEven a.natAbs).lt_of_below hlt
    (leading_bit_le_magnitude (Int.natAbs_ne_zero.2 ha))

/-- A float on the answer's grid is another integer for `RoundedToEven`. -/
theorem distance_le_of_on_grid {a h : Int} (ha : a ≠ 0) {p : Nat} (hp : p ≤ 31)
    (hgrid : 2 ^ (a.natAbs.log2 + 126 - p) ∣ h) (hne : h ≠ q2fValue a p) :
    |q2fValue a p * 2 ^ p - a * 2 ^ 149| ≤ |h * 2 ^ p - a * 2 ^ 149| ∧
      (|h * 2 ^ p - a * 2 ^ 149| = |q2fValue a p * 2 ^ p - a * 2 ^ 149| → significand a.natAbs % 2 = 0) := by
  obtain ⟨c, rfl⟩ := hgrid
  have hvalue : a.sign * (2 ^ (a.natAbs.log2 + 126 - p) * c) * 2 ^ p =
      a.sign * c * 2 ^ (a.natAbs.log2 + 126) := by
    rw [← weight_mul_pow a.natAbs.log2 hp]
    ring
  have hc : a.sign * c ≠ significand a.natAbs := by
    intro hsame
    apply hne
    rw [q2fValue, ← hsame]
    linear_combination (-(2 ^ (a.natAbs.log2 + 126 - p) * c)) * sign_mul_sign ha
  rw [distance_q2fValue ha hp, distance_eq ha, hvalue]
  exact_mod_cast (significand_roundedToEven a.natAbs).nearest hc

/-- Any other float is at least as far from `a / 2^p` as the answer, and as far only if the significand is even. -/
theorem q2fValue_nearest {a : Int} {p : Nat} (hp : p ≤ 31) {w : Word} {h : Int}
    (hw : f32Decode w = .finite h) (hne : h ≠ q2fValue a p) :
    |q2fValue a p * 2 ^ p - a * 2 ^ 149| ≤ |h * 2 ^ p - a * 2 ^ 149| ∧
      (|h * 2 ^ p - a * 2 ^ 149| = |q2fValue a p * 2 ^ p - a * 2 ^ 149| → significand a.natAbs % 2 = 0) := by
  by_cases ha : a = 0
  · subst ha
    rw [q2fValue_exact hp (by simp), sub_self, abs_zero]
    exact ⟨abs_nonneg _, fun _ => rfl⟩
  rcases float_below_or_on_grid hw (a.natAbs.log2 + 126 - p) with hbelow | hgrid
  · have hlt := distance_lt_of_below ha hp hbelow
    exact ⟨hlt.le, fun heq => absurd heq hlt.ne'⟩
  · exact distance_le_of_on_grid ha hp hgrid hne

/-- Converted back, the truncated Q number of a float is exact. On the grid of the Q numbers truncation loses
nothing, so no float is nearer than the one it came from; off that grid the Q number has at most 23 bits. -/
theorem q2fValue_of_truncDiv {n q : Int} {p : Nat} {w : Word} (hp : p ≤ 31) (hw : f32Decode w = .finite n)
    (hq : q = truncDiv (n * 2 ^ p) (2 ^ 149)) : q2fValue q p * 2 ^ p = q * 2 ^ 149 := by
  rcases float_below_or_on_grid hw (149 - p) with hbelow | ⟨c, hc⟩
  · obtain ⟨hle, -, -⟩ := truncDiv_roundedToZero (n * 2 ^ p) (den := 2 ^ 149) (by positivity)
    have hscaled : |n * 2 ^ p| < 2 ^ 23 * 2 ^ 149 := by
      rw [abs_mul, abs_of_pos (by positivity : (0 : Int) < 2 ^ p)]
      calc |n| * 2 ^ p < 2 ^ (23 + (149 - p)) * 2 ^ p := mul_lt_mul_of_pos_right hbelow (by positivity)
        _ = 2 ^ 23 * 2 ^ 149 := by
          rw [← pow_add, ← pow_add, show 23 + (149 - p) + p = 23 + 149 by omega]
    have hshort : |q| < 2 ^ 23 := by
      rw [← hq, abs_of_pos (by positivity : (0 : Int) < 2 ^ 149)] at hle
      exact lt_of_mul_lt_mul_right (hle.trans_lt hscaled) (by positivity)
    exact q2fValue_exact hp (hshort.trans (by norm_num))
  · have hscaled : n * 2 ^ p = c * 2 ^ 149 := by
      rw [hc, mul_right_comm, ← pow_add, Nat.sub_add_cancel (by omega), mul_comm]
    have hqc : q * 2 ^ 149 = n * 2 ^ p := by
      rw [hq, hscaled, truncDiv, Int.mul_tdiv_cancel _ (by positivity)]
    by_cases hne : n = q2fValue q p
    · rw [← hne, hqc]
    · have hzero := (q2fValue_nearest (a := q) hp hw hne).1
      rw [hqc, sub_self, abs_zero] at hzero
      rw [hqc]
      exact sub_eq_zero.1 (abs_nonpos_iff.1 hzero)

/-! ### The Q number of a float -/

theorem clamp_range_nonempty (i : Nat) : -2 ^ i ≤ (2 : Int) ^ i - 1 := by
  have hpos : (0 : Int) < 2 ^ i := by positivity
  omega

/-- Any legal format's clamp range, scaled, lies in the signed 32-bit range. -/
theorem clamp_range_fits {f : Fmt} (hf : f.Legal) :
    (-2147483648 : Int) ≤ -2 ^ f.fi.toNat * 2 ^ f.fp.toNat ∧
      ((2 : Int) ^ f.fi.toNat - 1) * 2 ^ f.fp.toNat ≤ 2147483647 := by
  have hprod : (2 : Int) ^ f.fi.toNat * 2 ^ f.fp.toNat ≤ 2 ^ 31 := by
    rw [← pow_add]
    exact pow_le_pow_right₀ (by omega) (by omega)
  have hone : (1 : Int) ≤ 2 ^ f.fp.toNat := one_le_pow₀ (by omega)
  constructor <;> linarith

/-- A whole number, scaled, is truncated to itself. -/
theorem truncDiv_whole (k : Int) (p : Nat) : truncDiv (k * 2 ^ 149 * 2 ^ p) (2 ^ 149) = k * 2 ^ p := by
  rw [mul_right_comm]
  exact Int.mul_tdiv_cancel _ (by positivity)

/-- Truncation of a value in the clamp range stays in the signed 32-bit range. -/
theorem truncDiv_clamped_fits {f : Fmt} (hf : f.Legal) {n : Int} (hlo : -2 ^ f.fi.toNat * 2 ^ 149 ≤ n)
    (hhi : n ≤ (2 ^ f.fi.toNat - 1) * 2 ^ 149) :
    -2147483648 ≤ truncDiv (n * 2 ^ f.fp.toNat) (2 ^ 149) ∧
      truncDiv (n * 2 ^ f.fp.toNat) (2 ^ 149) ≤ 2147483647 := by
  obtain ⟨hloFits, hhiFits⟩ := clamp_range_fits hf
  have hscale {k l : Int} (h : k ≤ l) : k * 2 ^ f.fp.toNat ≤ l * 2 ^ f.fp.toNat :=
    mul_le_mul_of_nonneg_right h (by positivity)
  have hlo' := Int.tdiv_le_tdiv (c := 2 ^ 149) (by positivity) (hscale hlo)
  have hhi' := Int.tdiv_le_tdiv (c := 2 ^ 149) (by positivity) (hscale hhi)
  exact ⟨hloFits.trans ((truncDiv_whole ..).symm.trans_le hlo'), hhi'.trans ((truncDiv_whole ..).trans_le hhiFits)⟩

/-- The clamp of a finite float. -/
theorem f32Clamp_finite {lo hi : Int} (h : lo ≤ hi) (n : Int) :
    f32Clamp lo hi (.finite n) = some (max (lo * 2 ^ 149) (min (hi * 2 ^ 149) n)) := by
  have hle : lo * 2 ^ 149 ≤ hi * 2 ^ 149 := mul_le_mul_of_nonneg_right h (by positivity)
  simp only [f32Clamp, f32One, Option.some.injEq]
  split_ifs <;> omega

/-- FXP_F2Q of a float that is `n` once clamped answers `n * 2^P` truncated; nothing saturates. -/
theorem execFxpF2q_of_clamped {s : State} {f : Fmt} {a : Word} {n : Int} (hf : f.Legal) (ha : s.opa = some a)
    (hclamp : f32Clamp (-2 ^ f.fi.toNat) (2 ^ f.fi.toNat - 1) (f32Decode a) = some n)
    (hlo : -2 ^ f.fi.toNat * 2 ^ 149 ≤ n) (hhi : n ≤ (2 ^ f.fi.toNat - 1) * 2 ^ 149) :
    ∃ r, exec (.fxpF2q f) s = .next (s.afterFxp r false) ∧
      r.toInt = truncDiv (n * 2 ^ f.fp.toNat) (2 ^ 149) := by
  obtain ⟨hrlo, hrhi⟩ := truncDiv_clamped_fits hf hlo hhi
  refine ⟨u32 (truncDiv (n * 2 ^ f.fp.toNat) (2 ^ 149)), ?_, toInt_u32 hrlo hrhi⟩
  have hq : floatToQ f a = some (truncDiv (n * 2 ^ f.fp.toNat) (2 ^ 149)) := by
    rw [floatToQ, hclamp]
    exact congrArg some (sat32_eq_self hrlo hrhi)
  rw [exec, execFxpF2q, needFormat_of hf, withA_some ha, hq]
  rfl

end Sys2Proof.Machine

namespace Sys2Proof.Proofs
open Sys2Proof.Machine

/-- Settles O12: the four kinds of float through the clamp; a whole end of the clamp range, scaled, is truncated to
itself. -/
theorem fxpF2qResult : Obligations.FxpF2qResult := by
  intro s f a hf ha
  have hrange := clamp_range_nonempty f.fi.toNat
  have hends : -2 ^ f.fi.toNat * 2 ^ 149 ≤ ((2 : Int) ^ f.fi.toNat - 1) * 2 ^ 149 :=
    mul_le_mul_of_nonneg_right hrange (by positivity)
  refine ⟨fun hnan => ?nan, fun hinf => ?posInf, fun hinf => ?negInf, fun n hn => ?finite⟩
  case nan =>
    have hq : floatToQ f a = none := by rw [floatToQ, hnan]; rfl
    rw [exec, execFxpF2q, needFormat_of hf, withA_some ha, hq]
    exact raise_eq .invalidFloat s
  case posInf =>
    obtain ⟨r, hexec, hr⟩ := execFxpF2q_of_clamped hf ha (by rw [hinf]; rfl) hends le_rfl
    exact ⟨r, hexec, hr.trans (truncDiv_whole ..)⟩
  case negInf =>
    obtain ⟨r, hexec, hr⟩ := execFxpF2q_of_clamped hf ha (by rw [hinf]; rfl) le_rfl hends
    exact ⟨r, hexec, hr.trans (truncDiv_whole ..)⟩
  case finite =>
    obtain ⟨r, hexec, hr⟩ := execFxpF2q_of_clamped hf ha (by rw [hn]; exact f32Clamp_finite hrange n)
      (le_max_left _ _) (max_le hends (min_le_left _ _))
    exact ⟨r, hexec, hr ▸ truncDiv_roundedToZero _ (by positivity)⟩

/-- Settles O13: the answer is `q2fValue`, and `q2fValue_nearest` compares it with every other float. -/
theorem fxpQ2fResult : Obligations.FxpQ2fResult := by
  intro s f a hf ha
  have hp : f.fp.toNat ≤ 31 := by omega
  have hdecode := f32Decode_rne32 (natAbs_toInt_le a) hp
  refine ⟨rne32 a.toInt f.fp.toNat, q2fValue a.toInt f.fp.toNat, (needFormat_of hf).trans (withA_some ha), hdecode,
    fun w h hw => ?nearest, fun w h hw hne htie => ?tie, fun hzero => ?zero⟩
  case nearest =>
    by_cases hne : h = q2fValue a.toInt f.fp.toNat
    · rw [hne]
    · exact (q2fValue_nearest hp hw hne).1
  case tie => exact rne32_getLsbD_zero _ ((q2fValue_nearest hp hw hne).2 htie)
  case zero => rw [hzero, BitVec.toInt_zero, rne32_zero]

/-- Settles O15: scaled, a float in the clamp range either lies on the grid of the Q numbers, and is then itself the
float nearest to its Q number, or has a Q number short enough to be converted back exactly. Either way the error is
that of the truncation. -/
theorem floatRoundTripWithinOneUnit : Obligations.FloatRoundTripWithinOneUnit := by
  intro s f w n hf ha hw hlo hhi
  have hp : f.fp.toNat ≤ 31 := by omega
  have hclamp : f32Clamp (-2 ^ f.fi.toNat) (2 ^ f.fi.toNat - 1) (f32Decode w) = some n := by
    rw [hw, f32Clamp_finite (clamp_range_nonempty _), min_eq_right hhi, max_eq_right hlo]
  obtain ⟨q, hexec, hq⟩ := execFxpF2q_of_clamped hf ha hclamp hlo hhi
  refine ⟨q, rne32 q.toInt f.fp.toNat, q2fValue q.toInt f.fp.toNat, hexec, (needFormat_of hf).trans rfl,
    f32Decode_rne32 (natAbs_toInt_le q) hp, ?_⟩
  rw [← abs_of_pos (a := (2 : Int) ^ f.fp.toNat) (by positivity), ← abs_mul, sub_mul,
    q2fValue_of_truncDiv hp hw hq, hq]
  exact (truncDiv_error _ (by positivity)).le

end Sys2Proof.Proofs
end

section
/-! PROOFS. The running mean (41_mean.md) and the checks that come before every rule (60_exceptions.md rule R216).
The window (R142, R147) is an invariant of one sample, `Mean.Window`; a sum of fewer than `2^32` signed words never
leaves the signed 64-bit range, so it is exact. -/

namespace Sys2Proof.Machine

/-! ### The readiness checks (rules R140, R160, R180) -/

theorem needMeanValid_of_not {m : BitVec 8} {s : State} {k : Result} (h : ¬ (s.meanAt m.toNat).valid = true) :
    needMeanValid m s k = .next (s.faultedWith 0x16#8) := by
  rw [needMeanValid, if_neg h]
  exact raise_eq .notInitialised s

theorem needRdoValid_of_not {e : BitVec 8} {s : State} {k : Result} (h : ¬ (s.rdoAt e.toNat).valid = true) :
    needRdoValid e s k = .next (s.faultedWith 0x16#8) := by
  rw [needRdoValid, if_neg h]
  exact raise_eq .notInitialised s

theorem needTable_of_unconfigured {s : State} {k : Result} (h : s.muxState = .unconfigured) :
    needTable s k = .next (s.faultedWith 0x16#8) := by
  rw [needTable, if_pos h]
  exact raise_eq .notInitialised s

/-! ### Words -/

/-- The word of a command that takes a SEL and no format. -/
theorem packFields_select (opc : BitVec 6) (sel : BitVec 8) :
    packFields opc ⟨0#5, 0#5⟩ sel = BitVec.ofNat 32 (opc.toNat * 2 ^ 26 + sel.toNat * 2 ^ 8) := by
  simp only [packFields_eq_ofNat, BitVec.toNat_ofNat, Nat.zero_mod, Nat.zero_mul, Nat.add_zero]

/-! ### A sample -/

@[simp] theorem meanAdd_index (a : Mean) (v : Word) : (meanAdd a v).index = a.index + 1#32 := rfl
@[simp] theorem meanAdd_maxSize (a : Mean) (v : Word) : (meanAdd a v).maxSize = a.maxSize := rfl
@[simp] theorem meanAdd_valid (a : Mean) (v : Word) : (meanAdd a v).valid = a.valid := rfl

/-- Below capacity the sum takes the sample, modulo `2^64` (41_mean.md rule R143). -/
theorem meanAdd_sum_of_lt {a : Mean} (h : a.index.toNat < a.maxSize.toNat) (v : Word) :
    (meanAdd a v).sum = a.sum + v.signExtend 64 := by
  rw [meanAdd, if_pos h, BitVec.ofInt_add, BitVec.ofInt_toInt]
  rfl

/-- At capacity the sum stays (41_mean.md rule R142). -/
theorem meanAdd_sum_of_not_lt {a : Mean} (h : ¬ a.index.toNat < a.maxSize.toNat) (v : Word) :
    (meanAdd a v).sum = a.sum :=
  if_neg h

/-- Below capacity the sum is exact while it stays in the signed 64-bit range. -/
theorem meanAdd_sum_toInt {a : Mean} (h : a.index.toNat < a.maxSize.toNat) {v : Word}
    (hlo : -2 ^ 63 ≤ a.sum.toInt + v.toInt) (hhi : a.sum.toInt + v.toInt < 2 ^ 63) :
    (meanAdd a v).sum.toInt = a.sum.toInt + v.toInt := by
  rw [meanAdd, if_pos h]
  exact BitVec.toInt_ofInt_eq_self (by decide) hlo hhi

/-! ### A window of samples -/

/-- A sum of signed words is bounded by their number. -/
theorem abs_sum_toInt_le (vs : List Word) : |(vs.map fun v => v.toInt).sum| ≤ vs.length * 2 ^ 31 := by
  induction vs with
  | nil => simp
  | cons v vs ih =>
    have hv := natAbs_toInt_le v
    rw [List.map_cons, List.sum_cons, List.length_cons, abs_le] at *
    omega

/-- `a` has capacity `cap` and has counted the samples `vs` since it was cleared; its sum is that of the first `cap`
of them (41_mean.md rules R142, R147). -/
structure Mean.Window (a : Mean) (cap : Word) (vs : List Word) : Prop where
  maxSize : a.maxSize = cap
  sum : a.sum.toInt = ((vs.take cap.toNat).map fun v => v.toInt).sum
  index : a.index.toNat = vs.length

/-- A cleared accumulator has seen nothing. -/
theorem Mean.Window.of_clear {a : Mean} (hsum : a.sum = 0#64) (hindex : a.index = 0#32) :
    a.Window a.maxSize [] where
  maxSize := rfl
  sum := by simp [hsum]
  index := by simp [hindex]

/-- One more sample. -/
theorem Mean.Window.add {a : Mean} {cap : Word} {vs : List Word} (h : a.Window cap vs)
    (hlen : vs.length + 1 < 2 ^ 32) (v : Word) : (meanAdd a v).Window cap (vs ++ [v]) where
  maxSize := (meanAdd_maxSize a v).trans h.maxSize
  index := by
    rw [meanAdd_index, BitVec.toNat_add, h.index, List.length_append]
    exact Nat.mod_eq_of_lt hlen
  sum := by
    have hcap : a.index.toNat < a.maxSize.toNat ↔ vs.length < cap.toNat := by rw [h.index, h.maxSize]
    by_cases hlt : vs.length < cap.toNat
    · have hsum := h.sum
      rw [List.take_of_length_le hlt.le] at hsum
      have hbound := abs_le.1 (abs_sum_toInt_le vs)
      have hv := natAbs_toInt_le v
      rw [meanAdd_sum_toInt (hcap.2 hlt) (by omega) (by omega), hsum,
        List.take_of_length_le (by simpa using hlt)]
      simp
    · rw [meanAdd_sum_of_not_lt (mt hcap.1 hlt), h.sum, List.take_append_of_le_length (not_lt.1 hlt)]

/-- A list of samples more. -/
theorem Mean.Window.foldl {a : Mean} {cap : Word} {ws : List Word} (h : a.Window cap ws) (vs : List Word)
    (hlen : ws.length + vs.length < 2 ^ 32) : (vs.foldl meanAdd a).Window cap (ws ++ vs) := by
  induction vs generalizing a ws with
  | nil => simpa using h
  | cons v vs ih =>
    rw [List.length_cons] at hlen
    rw [List.foldl_cons, List.append_cons]
    exact ih (h.add (by omega) v) (by rw [List.length_append, List.length_singleton]; omega)

/-! ### The commands, once their checks have passed -/

section
variable {s : State} {m : BitVec 8} {v : Word} (hm : m.toNat < s.cfg.meanCount)
  (hvalid : (s.meanAt m.toNat).valid = true) (ha : s.opa = some v)
include hm hvalid ha

/-- MEAN_ADD (41_mean.md rule R143). -/
theorem exec_meanAdd : exec (.meanAdd m) s = complete .ok false
    (((s.setMean m.toNat (meanAdd (s.meanAt m.toNat) v)).setRes
      ((meanAdd (s.meanAt m.toNat) v).sum.extractLsb' 0 32)).setResh
      ((meanAdd (s.meanAt m.toNat) v).sum.extractLsb' 32 32)) :=
  (needMean_of hm).trans <| (needMeanValid_of hvalid).trans (withA_some ha)

/-- What MEAN_ADD leaves of its accumulator, and for the next one. -/
theorem exec_meanAdd_meanAt : ∃ t, exec (.meanAdd m) s = .next t ∧ t.cfg = s.cfg ∧
    t.meanAt m.toNat = meanAdd (s.meanAt m.toNat) v :=
  ⟨_, exec_meanAdd hm hvalid ha, rfl, setMean_meanAt_same s _ _ (lt_of_meanAt_valid hvalid)⟩

/-- MEAN_CALC with divisor 0 (41_mean.md rule R145). -/
theorem exec_meanCalc_zero (hn : meanDivisor (s.meanAt m.toNat) v = 0) :
    exec (.meanCalc m) s = raise .divisionByZero s :=
  (needMean_of hm).trans <| (needMeanValid_of hvalid).trans <| (withA_some ha).trans (if_pos hn)

/-- MEAN_CALC with any other divisor (41_mean.md rule R145). -/
theorem exec_meanCalc_ne (hn : meanDivisor (s.meanAt m.toNat) v ≠ 0) :
    exec (.meanCalc m) s = complete .ok false
      (s.setRes (u32 (meanValue (s.meanAt m.toNat) (meanDivisor (s.meanAt m.toNat) v)))) :=
  (needMean_of hm).trans <| (needMeanValid_of hvalid).trans <| (withA_some ha).trans (if_neg hn)

end

/-- MEAN_ADD of every sample of a list adds them one by one to the accumulator. -/
theorem addSamples_meanAt {s : State} {m : BitVec 8} (hm : m.toNat < s.cfg.meanCount)
    (hvalid : (s.meanAt m.toNat).valid = true) (vs : List Word) :
    ∃ t, addSamples m vs s = .next t ∧ t.meanAt m.toNat = vs.foldl meanAdd (s.meanAt m.toNat) := by
  induction vs generalizing s with
  | nil => exact ⟨s, rfl, rfl⟩
  | cons v vs ih =>
    obtain ⟨u, hu, hcfg, hmean⟩ := exec_meanAdd_meanAt (s := { s with opa := some v }) hm hvalid rfl
    obtain ⟨t, ht, hfold⟩ := ih (s := u) (by rwa [hcfg]) (by rwa [hmean])
    exact ⟨t, by rw [addSamples, hu]; exact ht, by rw [hfold, hmean]; rfl⟩

/-! ### MEAN_CALC -/

/-- The divisor of rule R145: the override, or MAXSIZE when the override is 0. -/
theorem meanDivisor_eq {a : Mean} {v : Word} {n : Nat} (hzero : v = 0#32 → n = a.maxSize.toNat)
    (hne : v ≠ 0#32 → n = v.toNat) : meanDivisor a v = n := by
  have hv : v.toNat = 0 ↔ v = 0#32 := BitVec.toNat_inj (y := 0#32)
  by_cases h : v = 0#32
  · rw [meanDivisor, if_neg (not_not.2 (hv.2 h)), hzero h]
  · rw [meanDivisor, if_pos (mt hv.1 h), hne h]

/-- The factor `2^PREC` of rule R145 cancels. -/
theorem meanValue_eq (a : Mean) (n : Nat) : meanValue a n = sat32 (truncDiv a.sum.toInt n) := by
  rw [meanValue, truncDiv, Int.mul_tdiv_mul_of_pos_left _ _ (by positivity)]
  rfl

/-- `t` has what MEAN_CALC looks at as `s` has it. -/
structure MeanInputsEq (s t : State) : Prop where
  cfg : t.cfg = s.cfg
  mean : t.mean = s.mean
  opa : t.opa = s.opa

/-- From states that agree on its inputs MEAN_CALC does the same: it raises one fault, or it writes one value to
RES. -/
theorem exec_meanCalc_uniform (m : BitVec 8) (s : State) :
    (∃ c, ∀ t, MeanInputsEq s t → exec (.meanCalc m) t = raise c t) ∨
      ∃ v, ∀ t, MeanInputsEq s t → exec (.meanCalc m) t = complete .ok false (t.setRes v) := by
  have hat {t : State} (h : MeanInputsEq s t) : t.meanAt m.toNat = s.meanAt m.toNat := by
    rw [State.meanAt, h.mean]
    rfl
  by_cases hm : m.toNat < s.cfg.meanCount
  case neg => exact .inl ⟨.badSelect, fun t h => if_neg (by rwa [h.cfg])⟩
  by_cases hvalid : (s.meanAt m.toNat).valid = true
  case neg =>
    exact .inl ⟨.notInitialised, fun t h => (needMean_of (by rwa [h.cfg])).trans (if_neg (by rwa [hat h]))⟩
  cases hopa : s.opa with
  | none =>
    refine .inl ⟨.operandUnwritten, fun t h => ?_⟩
    refine (needMean_of (by rwa [h.cfg])).trans <| (needMeanValid_of (by rwa [hat h])).trans ?_
    rw [withA, h.opa, hopa]
  | some v =>
    by_cases hn : meanDivisor (s.meanAt m.toNat) v = 0
    · exact .inl ⟨.divisionByZero, fun t h => exec_meanCalc_zero (by rwa [h.cfg]) (by rwa [hat h])
        (h.opa.trans hopa) (by rwa [hat h])⟩
    · refine .inr ⟨u32 (meanValue (s.meanAt m.toNat) (meanDivisor (s.meanAt m.toNat) v)), fun t h => ?_⟩
      rw [exec_meanCalc_ne (by rwa [h.cfg]) (by rwa [hat h]) (h.opa.trans hopa) (by rwa [hat h]), hat h]

/-- A fault raised again is recorded already (60_exceptions.md rule R214). -/
theorem commandFault_commandFault (st : Status) (c : FaultCode) :
    (st.commandFault c).commandFault c = st.commandFault c := by
  rw [commandFault_eq, commandFault_eq]
  cases h : st.fault <;> simp [Status.faulted, h]

end Sys2Proof.Machine

namespace Sys2Proof.Proofs
open Sys2Proof.Machine

/-- Settles O8: a command that needs something initialised checks that right after its SEL, or first of all. -/
theorem instanceNotReadyFaults : Obligations.InstanceNotReadyFaults := by
  rintro i s ⟨_, hselect⟩ hready
  cases i with
  | meanAdd m | meanReset m | meanCalc m => exact (needMean_of hselect).trans (needMeanValid_of_not hready)
  | rdoAdvance e | rdoGet e | rdoEnable e => exact (needRdo_of hselect).trans (needRdoValid_of_not hready)
  | muxAdd | muxSend | muxRecv => exact needTable_of_unconfigured (not_not.1 hready)
  | muxInit => exact (if_pos hready).trans (raise_eq .reinit s)
  | _ => exact absurd trivial hready

/-- Every command makes the checks of its word, then of what it needs initialised, then of its operands
(60_exceptions.md rule R216). -/
theorem checksFirst (i : Instr) (s : State) : i.ChecksFirst s :=
  ⟨(formatAndSelectChecksFault i s).1, (formatAndSelectChecksFault i s).2, instanceNotReadyFaults i s,
    unwrittenOperandFaults i s⟩

/-- Settles O20: both write the one accumulator they select (`setMean_meanAt_same`, `setMean_meanAt_ne`). -/
theorem meanInitAndResetResults : Obligations.MeanInitAndResetResults := by
  refine ⟨fun f m => ⟨packFields_eq_ofNat 0x10#6 f m, checksFirst _⟩,
    fun m => ⟨packFields_select 0x12#6 m, checksFirst _⟩,
    fun s m hsized hm => ⟨fun f a hf ha => ?init, fun hvalid => ?reset⟩⟩
  case init =>
    exact ⟨_, (needFormat_of hf).trans <| (needMean_of hm).trans (withA_some ha), rfl,
      setMean_meanAt_same _ _ _ (hsized.symm ▸ hm), fun k hk => setMean_meanAt_ne _ _ k _ hk⟩
  case reset =>
    refine ⟨_, (needMean_of hm).trans (needMeanValid_of hvalid), rfl, ?_, fun k hk => setMean_meanAt_ne _ _ k _ hk⟩
    rw [← hvalid]
    exact setMean_meanAt_same _ _ _ (hsized.symm ▸ hm)

/-- Settles O21: the accumulator becomes `meanAdd` of it, and RESH:RES are the halves of its sum. -/
theorem meanAddResult : Obligations.MeanAddResult := by
  refine ⟨fun m => ⟨packFields_select 0x11#6 m, checksFirst _⟩, fun s m v hm hvalid ha => ?_⟩
  refine ⟨_, _, _, exec_meanAdd hm hvalid ha, rfl, ?_⟩
  simp only [setStatus_meanAt, setResh_meanAt, setRes_meanAt,
    setMean_meanAt_same _ m.toNat _ (lt_of_meanAt_valid hvalid)]
  exact ⟨sum_halves _, fun h => meanAdd_sum_of_lt h v, fun h => meanAdd_sum_of_not_lt h v, rfl,
    fun k hk => setMean_meanAt_ne _ _ k _ hk⟩

/-- Settles O22: the quotient of SUM by the divisor of rule R145, truncated and then clamped. -/
theorem meanCalcResult : Obligations.MeanCalcResult := by
  refine ⟨fun m => ⟨packFields_select 0x13#6 m, checksFirst _⟩, fun s m v n hm hvalid ha hzero hne => ?_⟩
  have hdiv := meanDivisor_eq hzero hne
  refine ⟨fun hn => ?divisionByZero, fun hn => ?quotient⟩
  case divisionByZero =>
    exact (exec_meanCalc_zero hm hvalid ha (hdiv.trans hn)).trans (raise_eq .divisionByZero s)
  case quotient =>
    refine ⟨_, _, exec_meanCalc_ne hm hvalid ha (by rwa [hdiv]),
      truncDiv_roundedToZero _ (Int.natCast_ne_zero.2 hn), ?_⟩
    rw [hdiv, meanValue_eq]
    exact clamped_sat32 _

/-- Settles O23: MEAN_CALC changes RES and STATUS, which it does not look at (`exec_meanCalc_uniform`), and doing
either change again changes nothing. -/
theorem meanCalcTwiceIsOnce : Obligations.MeanCalcTwiceIsOnce := by
  intro m s t h
  rcases exec_meanCalc_uniform m s with ⟨c, hexec⟩ | ⟨v, hexec⟩ <;> rw [hexec s ⟨rfl, rfl, rfl⟩] at h
  · obtain rfl := raise_next.1 h
    have hinputs : MeanInputsEq s (s.setStatus (s.status.commandFault c)) := ⟨rfl, rfl, rfl⟩
    rw [hexec _ hinputs, raise_next, setStatus_status, commandFault_commandFault]
    rfl
  · obtain rfl := complete_next.1 h
    have hinputs : MeanInputsEq s ((s.setRes v).setStatus (s.status.complete .ok false)) := ⟨rfl, rfl, rfl⟩
    exact (hexec _ hinputs).trans (complete_next.2 rfl)

/-- Settles O24: a cleared accumulator is an empty window, and each sample keeps it one (`Mean.Window.add`). -/
theorem meanWindowSumsFirstSamples : Obligations.MeanWindowSumsFirstSamples := by
  intro s m vs hm hvalid hsum hindex hlen
  obtain ⟨t, ht, hmean⟩ := addSamples_meanAt hm hvalid vs
  have hwindow := (Mean.Window.of_clear hsum hindex).foldl vs (by simpa using hlen)
  rw [List.nil_append, ← hmean] at hwindow
  exact ⟨t, ht, hwindow.sum, hwindow.index⟩

end Sys2Proof.Proofs
end

section
/-! PROOFS. The RDO engines' own commands (42_rdo_client.md section 2) and the rollover sequence. Any positive number
of advances is one advance by their number (`advanced_iterate_offset`); the commands are that, and `Rdo.initial`. -/

namespace Sys2Proof.Machine

/-! ### Advancing an engine -/

/-- However often an engine advances, only its offset changes (42_rdo_client.md rule R162). -/
theorem advanced_iterate_eq (n : Nat) (r : Rdo) :
    Rdo.advanced^[n] r = { r with offset := (Rdo.advanced^[n] r).offset } := by
  induction n with
  | zero => rfl
  | succ n ih =>
    rw [Function.iterate_succ_apply', ih]
    rfl

@[simp] theorem advanced_iterate_valid (n : Nat) (r : Rdo) : (Rdo.advanced^[n] r).valid = r.valid := by
  rw [advanced_iterate_eq]

/-- Any positive number of advances is one, by their number (42_rdo_client.md rule R162). -/
theorem advanced_iterate_offset {r : Rdo} (h : r.rollover ≠ 0#16) {n : Nat} (hn : n ≠ 0) :
    (Rdo.advanced^[n] r).offset.toNat = (r.offset.toNat + n) % r.rollover.toNat := by
  induction n, Nat.one_le_iff_ne_zero.2 hn using Nat.le_induction with
  | base => exact advanced_offset r h
  | succ n hle ih =>
    have hroll : (Rdo.advanced^[n] r).rollover = r.rollover := by rw [advanced_iterate_eq]
    rw [Function.iterate_succ_apply', advanced_offset _ (hroll ▸ h), hroll, ih (by omega), Nat.mod_add_mod,
      Nat.add_assoc]

/-- A valid engine that advances is what stands in the table next. -/
theorem adv_rdoAt_same {s : State} {e : Nat} (h : (s.rdoAt e).valid = true) :
    (adv e s).rdoAt e = (s.rdoAt e).advanced :=
  setRdo_rdoAt_same s e _ (lt_of_rdoAt_valid h)

theorem adv_rdoAt_ne {s : State} {e k : Nat} (h : k ≠ e) : (adv e s).rdoAt k = s.rdoAt k :=
  setRdo_rdoAt_ne s e k _ h

/-! ### The operands of the commands -/

/-- The reserved bits of OPA, from bit `k` up, as a bound on its value (42_rdo_client.md rules R161, R165). -/
theorem extract_high_ne_zero_iff {k n : Nat} (hkn : k + n = 32) (a : Word) :
    a.extractLsb' k n ≠ 0#n ↔ 2 ^ k ≤ a.toNat := by
  have hlt : a.toNat / 2 ^ k < 2 ^ n := Nat.div_lt_of_lt_mul (by rw [← Nat.pow_add, hkn]; exact a.isLt)
  rw [ne_eq, ← BitVec.toNat_inj, BitVec.extractLsb'_toNat, Nat.shiftRight_eq_div_pow, Nat.mod_eq_of_lt hlt,
    BitVec.toNat_ofNat, Nat.zero_mod, Nat.div_eq_zero_iff_lt (Nat.two_pow_pos k), not_lt]

/-- The engine RDO_INIT leaves for operand `a` (42_rdo_client.md rule R161). -/
def Rdo.initial (a : Word) : Rdo :=
  ⟨0#16, if a.extractLsb' 0 16 ≠ 0#16 then a.extractLsb' 0 16 else 15#16, true, true⟩

theorem initial_rollover {a : Word} (ha : a.toNat < 2 ^ 16) :
    (Rdo.initial a).rollover.toNat = if a.toNat = 0 then 15 else a.toNat := by
  have hlow : (a.extractLsb' 0 16).toNat = a.toNat := by
    rw [BitVec.extractLsb'_toNat, Nat.shiftRight_zero, Nat.mod_eq_of_lt ha]
  have hzero : a.extractLsb' 0 16 = 0#16 ↔ a.toNat = 0 := by rw [← BitVec.toNat_inj, hlow]; rfl
  by_cases h : a.toNat = 0
  · rw [Rdo.initial, if_neg (not_not.2 (hzero.2 h)), if_pos h]
    rfl
  · rw [Rdo.initial, if_pos (mt hzero.1 h), if_neg h, hlow]

theorem initial_rollover_ne {a : Word} (ha : a.toNat < 2 ^ 16) : (Rdo.initial a).rollover ≠ 0#16 := by
  intro h
  have hroll := initial_rollover ha
  rw [h, BitVec.toNat_ofNat] at hroll
  split at hroll <;> omega

/-! ### The commands, once their checks have passed -/

section
variable {s : State} {e : BitVec 8} {a : Word} (he : e.toNat < s.cfg.rdoCount)
include he

/-- RDO_INIT with reserved bits set (42_rdo_client.md rule R161). -/
theorem exec_rdoInit_reserved (ha : s.opa = some a) (h : 2 ^ 16 ≤ a.toNat) :
    exec (.rdoInit e) s = raise .illegalOperand s :=
  (needRdo_of he).trans <| (withA_some ha).trans (if_pos ((extract_high_ne_zero_iff rfl a).2 h))

/-- RDO_INIT (42_rdo_client.md rule R161). -/
theorem exec_rdoInit (ha : s.opa = some a) (h : a.toNat < 2 ^ 16) :
    exec (.rdoInit e) s = complete .ok false (s.setRdo e.toNat (Rdo.initial a)) :=
  (needRdo_of he).trans <| (withA_some ha).trans (if_neg (mt (extract_high_ne_zero_iff rfl a).1 (not_le.2 h)))

/-- What RDO_INIT leaves of its engine, and for the next command. -/
theorem exec_rdoInit_rdoAt (hsized : s.rdo.length = s.cfg.rdoCount) (ha : s.opa = some a) (h : a.toNat < 2 ^ 16) :
    ∃ t, exec (.rdoInit e) s = .next t ∧ t.cfg = s.cfg ∧ t.rdoAt e.toNat = Rdo.initial a :=
  ⟨_, exec_rdoInit he ha h, rfl, setRdo_rdoAt_same s _ _ (hsized.symm ▸ he)⟩

variable (hvalid : (s.rdoAt e.toNat).valid = true)
include hvalid

/-- RDO_ADVANCE, whatever ENABLED is (42_rdo_client.md rule R163). -/
theorem exec_rdoAdvance : exec (.rdoAdvance e) s = complete .ok false (adv e.toNat s) :=
  (needRdo_of he).trans (needRdoValid_of hvalid)

/-- What RDO_ADVANCE leaves of its engine, and for the next one. -/
theorem exec_rdoAdvance_rdoAt : ∃ t, exec (.rdoAdvance e) s = .next t ∧ t.cfg = s.cfg ∧
    t.rdoAt e.toNat = (s.rdoAt e.toNat).advanced :=
  ⟨_, exec_rdoAdvance he hvalid, rfl, adv_rdoAt_same hvalid⟩

/-- RDO_GET (42_rdo_client.md rule R164). -/
theorem exec_rdoGet : exec (.rdoGet e) s = complete .ok false
    (s.setRes (if (s.rdoAt e.toNat).enabled then (s.rdoAt e.toNat).offset.setWidth 32 else 0#32)) :=
  (needRdo_of he).trans (needRdoValid_of hvalid)

/-- RDO_ENABLE with reserved bits set (42_rdo_client.md rule R165). -/
theorem exec_rdoEnable_reserved (ha : s.opa = some a) (h : 2 ≤ a.toNat) :
    exec (.rdoEnable e) s = raise .illegalOperand s :=
  (needRdo_of he).trans <| (needRdoValid_of hvalid).trans <| (withA_some ha).trans
    (if_pos ((extract_high_ne_zero_iff (k := 1) rfl a).2 h))

/-- RDO_ENABLE (42_rdo_client.md rule R165). -/
theorem exec_rdoEnable (ha : s.opa = some a) (h : a.toNat < 2) :
    exec (.rdoEnable e) s =
      complete .ok false (s.setRdo e.toNat { s.rdoAt e.toNat with enabled := a.getLsbD 0 }) :=
  (needRdo_of he).trans <| (needRdoValid_of hvalid).trans <| (withA_some ha).trans
    (if_neg (mt (extract_high_ne_zero_iff (k := 1) rfl a).1 (not_le.2 h)))

end

/-- A number of RDO_ADVANCE commands advance the engine that often (42_rdo_client.md rule R163). -/
theorem execAll_rdoAdvance {s : State} {e : BitVec 8} (he : e.toNat < s.cfg.rdoCount)
    (hvalid : (s.rdoAt e.toNat).valid = true) (n : Nat) :
    ∃ t, execAll (List.replicate n (.rdoAdvance e)) s = .next t ∧
      t.rdoAt e.toNat = Rdo.advanced^[n] (s.rdoAt e.toNat) := by
  induction n generalizing s with
  | zero => exact ⟨s, rfl, rfl⟩
  | succ n ih =>
    obtain ⟨u, hu, hcfg, hadv⟩ := exec_rdoAdvance_rdoAt he hvalid
    obtain ⟨t, ht, hrdo⟩ := ih (s := u) (by rwa [hcfg]) (by rwa [hadv])
    exact ⟨t, by rw [List.replicate_succ, execAll, hu]; exact ht, by rw [hrdo, hadv, Function.iterate_succ_apply]⟩

end Sys2Proof.Machine

namespace Sys2Proof.Proofs
open Sys2Proof.Machine

/-- Settles O25: the reserved bits are those above 15 (`extract_high_ne_zero_iff`), and the engine written is
`Rdo.initial`. -/
theorem rdoInitResult : Obligations.RdoInitResult := by
  refine ⟨fun e => ⟨packFields_select 0x28#6 e, checksFirst _⟩,
    fun s e a hsized he ha => ⟨fun hreserved => ?reserved, fun hlt => ?init⟩⟩
  case reserved => exact (exec_rdoInit_reserved he ha hreserved).trans (raise_eq .illegalOperand s)
  case init =>
    refine ⟨_, exec_rdoInit he ha hlt, rfl, ?_⟩
    rw [setStatus_rdoAt, setRdo_rdoAt_same _ _ _ (hsized.symm ▸ he)]
    exact ⟨rfl, rfl, rfl, initial_rollover hlt, fun k hk => setRdo_rdoAt_ne _ _ k _ hk⟩

/-- Settles O26: the engine advances (`advanced_offset`); a remainder is below the rollover. -/
theorem rdoAdvanceResult : Obligations.RdoAdvanceResult := by
  refine ⟨fun e => ⟨packFields_select 0x29#6 e, checksFirst _⟩, fun s e he hvalid hroll => ?_⟩
  have hpos : 0 < (s.rdoAt e.toNat).rollover.toNat :=
    Nat.pos_of_ne_zero fun h0 => hroll (BitVec.eq_of_toNat_eq h0)
  refine ⟨_, exec_rdoAdvance he hvalid, rfl, ?_⟩
  rw [setStatus_rdoAt, adv_rdoAt_same hvalid, advanced_offset _ hroll]
  exact ⟨rfl, Nat.mod_lt _ hpos, rfl, fun k hk => adv_rdoAt_ne hk⟩

/-- Settles O27: the two values of ENABLED. -/
theorem rdoGetResult : Obligations.RdoGetResult := by
  refine ⟨fun e => ⟨packFields_select 0x2A#6 e, checksFirst _⟩, fun s e he hvalid => ?_⟩
  refine ⟨_, exec_rdoGet he hvalid, fun henabled => ?enabled, fun hdisabled => ?disabled⟩
  case enabled =>
    rw [if_pos henabled, BitVec.toNat_setWidth]
    exact Nat.mod_eq_of_lt (by omega)
  case disabled => rw [hdisabled]; rfl

/-- Settles O28: bit 0 of a word below 2 is the word. -/
theorem rdoEnableResult : Obligations.RdoEnableResult := by
  refine ⟨fun e => ⟨packFields_select 0x2B#6 e, checksFirst _⟩,
    fun s e a he hvalid ha => ⟨fun hreserved => ?reserved, fun hlt => ?enable⟩⟩
  case reserved => exact (exec_rdoEnable_reserved he hvalid ha hreserved).trans (raise_eq .illegalOperand s)
  case enable =>
    have hbit : a.getLsbD 0 = decide (a.toNat = 1) := by
      rw [BitVec.getLsbD, Nat.testBit_zero, Nat.mod_eq_of_lt hlt]
    refine ⟨_, exec_rdoEnable he hvalid ha hlt, rfl, ?_, fun k hk => setRdo_rdoAt_ne _ _ k _ hk⟩
    rw [setStatus_rdoAt, setRdo_rdoAt_same _ _ _ (lt_of_rdoAt_valid hvalid), hbit]

/-- Settles O29: `n` advances of an engine whose offset is 0 (`execAll_rdoAdvance`, `advanced_iterate_offset`). -/
theorem rdoRolloverSequence : Obligations.RdoRolloverSequence := by
  intro s e a n hsized he ha hlt
  obtain ⟨u, hu, hcfg, hinit⟩ := exec_rdoInit_rdoAt he hsized ha hlt
  obtain ⟨t, ht, hrdo⟩ := execAll_rdoAdvance (s := u) (by rwa [hcfg]) (by rw [hinit]; rfl) n
  refine ⟨t, by rw [execAll, hu]; exact ht, ?_⟩
  rw [hrdo, hinit, ← initial_rollover hlt]
  rcases Nat.eq_zero_or_pos n with rfl | hpos
  · exact (Nat.zero_mod _).symm
  · rw [advanced_iterate_offset (initial_rollover_ne hlt) hpos.ne']
    exact congrArg (· % _) (Nat.zero_add n)

end Sys2Proof.Proofs
end

section
/-! PROOFS. The RDO engines as slot clients (42_rdo_client.md section 3, 43_multiplexer.md section 3). A run of
dispatches that completes is an induction over the slots (`walkSlots_completes`, `walkSlots_done_keeps`); its
invariants, `Sent` and `Received`, say what the first slots have done to the engines and to FB. -/

namespace Sys2Proof.Machine

/-! ### The wire field -/

/-- The two bytes at `a` are `o`, big-endian (42_rdo_client.md rule R166). -/
def Memory.HoldsOffset (m : Memory) (a : Nat) (o : Half) : Prop :=
  ∃ hi lo : Byte, hi ++ lo = o ∧ Memory.read m a = some hi ∧ Memory.read m (a + 1) = some lo

/-- The field written is what stands there. -/
theorem Memory.holdsOffset_writeBytes (m : Memory) (a : Nat) (o : Half) :
    Memory.HoldsOffset (Memory.writeBytes m a (rdoField o)) a o :=
  ⟨o.extractLsb' 8 8, o.extractLsb' 0 8,
    (BitVec.extractLsb'_append_extractLsb'_eq_extractLsb' rfl).trans BitVec.extractLsb'_eq_self,
    Memory.read_writeBytes_inside m a 0 (rdoField o) Nat.two_pos,
    Memory.read_writeBytes_inside m a 1 (rdoField o) Nat.one_lt_two⟩

/-! ### The registered slots -/

/-- The registered descriptors in wire order are the slots below MUX_COUNT (10_state.md rule R31). -/
theorem State.TableInv.registered_getElem? {s : State} (hs : s.TableInv) {k : Nat} (hk : k < s.muxCount.toNat) :
    s.registered[k]? = some (s.slotAt k) := by
  have hlt : k < s.slots.length := by rw [hs.sized]; exact Nat.lt_of_lt_of_le hk hs.count_le
  rw [State.registered, List.getElem?_take_of_lt hk, State.slotAt, List.getD_eq_getElem _ _ hlt,
    List.getElem?_eq_getElem hlt]

theorem State.TableInv.slotAt_mem {s : State} (hs : s.TableInv) {k : Nat} (hk : k < s.muxCount.toNat) :
    s.slotAt k ∈ s.registered :=
  List.mem_of_getElem? (hs.registered_getElem? hk)

theorem State.registered_length_le (s : State) : s.registered.length ≤ s.muxCount.toNat :=
  List.length_take_le _ _

theorem State.TableInv.registered_drop {s : State} (hs : s.TableInv) {k : Nat} (hk : k < s.muxCount.toNat) :
    s.registered.drop k = s.slotAt k :: s.registered.drop (k + 1) := by
  obtain ⟨hlt, hat⟩ := List.getElem?_eq_some_iff.1 (hs.registered_getElem? hk)
  rw [List.drop_eq_getElem_cons hlt, hat]

/-- How many of the first `k` slots send engine `e` (42_rdo_client.md rule R166). -/
def State.engineSends (s : State) (k e : Nat) : Nat :=
  (s.registered.take k).countP fun d => decide (d.send = 1#8 ∧ d.inst.toNat = e)

@[simp] theorem engineSends_zero (s : State) (e : Nat) : s.engineSends 0 e = 0 := rfl

theorem engineSends_succ {s : State} (hs : s.TableInv) {k : Nat} (hk : k < s.muxCount.toNat) (e : Nat) :
    s.engineSends (k + 1) e =
      s.engineSends k e + if (s.slotAt k).send = 1#8 ∧ (s.slotAt k).inst.toNat = e then 1 else 0 := by
  rw [State.engineSends, List.take_add_one, hs.registered_getElem? hk, List.countP_append, State.engineSends]
  simp [List.countP_cons]

/-- Of all slots, MUX_SEND sends engine `e` as often as port-1 slots name it. -/
theorem engineSends_muxCount (s : State) (e : Nat) :
    s.engineSends s.muxCount.toNat e = s.registered.countP fun d => decide (d.send = 1#8 ∧ d.inst.toNat = e) := by
  rw [State.engineSends, List.take_of_length_le s.registered_length_le]

/-- Slots that do not send engine `e` do not count. -/
theorem engineSends_eq_of_not_sent {s : State} (hs : s.TableInv) {k n e : Nat} (hkn : k ≤ n)
    (hn : n ≤ s.muxCount.toNat)
    (hnot : ∀ j, k ≤ j → j < n → (s.slotAt j).send = 1#8 → (s.slotAt j).inst.toNat ≠ e) :
    s.engineSends n e = s.engineSends k e := by
  induction n, hkn using Nat.le_induction with
  | base => rfl
  | succ n hle ih =>
    rw [engineSends_succ hs hn, if_neg fun h => hnot n hle n.lt_succ_self h.1 h.2, Nat.add_zero,
      ih (by omega) fun j hj hjn => hnot j hj (by omega)]

/-- What slot `k` carries, by the number of sends up to it. -/
theorem sentOffset_eq (s : State) (k : Nat) :
    s.sentOffset k = ((s.rdoAt (s.slotAt k).inst.toNat).offset.toNat +
      s.engineSends (k + 1) (s.slotAt k).inst.toNat) % (s.rdoAt (s.slotAt k).inst.toNat).rollover.toNat := by
  simp only [State.sentOffset, State.engineSends, BitVec.toNat_inj]

/-! ### Runs that complete -/

/-- If every dispatch completes and takes `P` from its slot to the next, so does the run. -/
theorem walkSlots_completes {dispatch : Nat → State → Walk} {P : Nat → State → Prop} {n i : Nat} {s : State}
    (hs : P i s)
    (hstep : ∀ k u, k < i + n → P k u → ∃ v, dispatch k u = .done v ∧ P (k + 1) v) :
    ∃ t, walkSlots dispatch n i s = .done t ∧ P (i + n) t := by
  induction n generalizing i s with
  | zero => exact ⟨s, rfl, hs⟩
  | succ n ih =>
    obtain ⟨u, hu, hnext⟩ := hstep i s (by omega) hs
    rw [walkSlots_of_done hu, ← Nat.succ_add_eq_add_succ i n]
    exact ih hnext fun k v hk => hstep k v (by omega)

/-- A run that completes takes `P` over its slots if each dispatch that completes does. -/
theorem walkSlots_done_keeps {dispatch : Nat → State → Walk} {P : Nat → State → Prop} {n i : Nat} {s t : State}
    (hs : P i s) (hstep : ∀ k u v, k < i + n → P k u → dispatch k u = .done v → P (k + 1) v)
    (h : walkSlots dispatch n i s = .done t) : P (i + n) t := by
  induction n generalizing i s with
  | zero => cases h; exact hs
  | succ n ih =>
    rw [walkSlots_succ] at h
    cases hi : dispatch i s with
    | done u =>
      rw [hi] at h
      rw [← Nat.succ_add_eq_add_succ i n]
      exact ih (hstep i s u (by omega) hs hi) (fun k u v hk => hstep k u v (by omega)) h
    | stop c u => rw [hi] at h; cases h
    | wait q u => rw [hi] at h; cases h

/-! ### Send dispatches that complete -/

/-- A send dispatch to an engine that is ready (42_rdo_client.md rule R166). -/
theorem sendDispatch_of_engine {i : Nat} {s : State} (hsend : (s.slotAt i).send = 1#8)
    (hready : engineReady s (s.slotAt i)) :
    sendDispatch i s = .done ((adv (s.slotAt i).inst.toNat s).setFb
      (Memory.writeBytes s.fb (s.slotAt i).index.toNat
        (rdoField (s.rdoAt (s.slotAt i).inst.toNat).advanced.offset))) := by
  obtain ⟨hinst, hvalid, hsize⟩ := hready
  refine (if_pos hsend).trans ?_
  rw [rdoSend, needEngine, if_neg (not_le.2 hinst), if_neg (by simp [hvalid]), if_neg (not_not.2 hsize),
    ← adv_rdoAt_same hvalid]
  rfl

/-- A send dispatch to an external client that has answered (43_multiplexer.md rule R191). -/
theorem sendDispatch_of_client {i : Nat} {s : State} {bs : List Byte} {rest : List ClientRsp}
    (hsend : (s.slotAt i).send ≠ 1#8) (hext : isExternal s.cfg (s.slotAt i).send)
    (hclients : s.clients = .sendRsp bs :: rest) (hlen : bs.length = (s.slotAt i).size.toNat) :
    sendDispatch i s = .done (((s.issue (sendReqOf (s.slotAt i))).setFb
      (Memory.writeBytes s.fb (s.slotAt i).index.toNat bs)).setClients rest) := by
  refine (if_neg hsend).trans <| (if_pos hext).trans ?_
  rw [takeSendRsp, issue_clients, hclients]
  exact if_pos hlen

/-- A send dispatch that completes advances the engine its slot names, if it is a port-1 slot, and no other. -/
theorem sendDispatch_done_rdoAt {i : Nat} {s t : State} (h : sendDispatch i s = .done t) (e : Nat) :
    t.rdoAt e = if (s.slotAt i).send = 1#8 ∧ (s.slotAt i).inst.toNat = e then (s.rdoAt e).advanced
      else s.rdoAt e := by
  rcases sendDispatch_cases i s with ⟨c, hd⟩ | ⟨hsend, ⟨_, hvalid, _⟩, hd⟩ | ⟨hne, _, ⟨_, _, _, _, hd⟩ | hd⟩ <;>
    cases hd.symm.trans h
  · by_cases he : (s.slotAt i).inst.toNat = e
    · rw [if_pos ⟨hsend, he⟩, setFb_rdoAt, ← he, adv_rdoAt_same hvalid]
    · rw [if_neg fun hand => he hand.2, setFb_rdoAt, adv_rdoAt_ne (Ne.symm he)]
  · rw [if_neg fun hand => hne hand.1]
    rfl

/-- A send dispatch to port 1 that completes leaves the engine's new offset in its window. -/
theorem sendDispatch_done_holdsOffset {i : Nat} {s t : State} (h : sendDispatch i s = .done t)
    (hsend : (s.slotAt i).send = 1#8) :
    (s.slotAt i).size = 2#16 ∧
      Memory.HoldsOffset t.fb (s.slotAt i).index.toNat (t.rdoAt (s.slotAt i).inst.toNat).offset := by
  rcases sendDispatch_cases i s with ⟨c, hd⟩ | ⟨_, ⟨_, hvalid, hsize⟩, hd⟩ | ⟨hne, _⟩
  · cases hd.symm.trans h
  · cases hd.symm.trans h
    rw [setFb_rdoAt, adv_rdoAt_same hvalid]
    exact ⟨hsize, Memory.holdsOffset_writeBytes _ _ _⟩
  · exact absurd hsend hne

/-! ### What the first slots of a MUX_SEND have done -/

/-- `u` is where MUX_SEND from `s` stands after `k` slots: each engine has advanced once for each of them that
sends it, and each port-1 slot among them carries its engine's offset after its own advance (42_rdo_client.md
rules R162, R166). -/
structure Sent (s : State) (k : Nat) (u : State) : Prop where
  frame : DispatchFrame s u
  engines : ∀ e, u.rdoAt e = Rdo.advanced^[s.engineSends k e] (s.rdoAt e)
  carried : ∀ i, i < k → (s.slotAt i).send = 1#8 → (s.slotAt i).size = 2#16 ∧
    Memory.HoldsOffset u.fb (s.slotAt i).index.toNat
      (Rdo.advanced^[s.engineSends (i + 1) (s.slotAt i).inst.toNat] (s.rdoAt (s.slotAt i).inst.toNat)).offset

theorem Sent.start (s : State) : Sent s 0 s where
  frame := .refl s
  engines _ := rfl
  carried _ hi := absurd hi (Nat.not_lt_zero _)

/-- What stands in the window of one slot stays when another window is written (10_state.md rule R32). -/
theorem WritesWindow.read_other {s : State} (hs : s.TableInv) {i k a : Nat} {m : Memory}
    (h : WritesWindow s k m) (hi : i < s.muxCount.toNat) (hk : k < s.muxCount.toNat) (hik : i ≠ k)
    (hlo : (s.slotAt i).index.toNat ≤ a) (hhi : a < (s.slotAt i).index.toNat + (s.slotAt i).size.toNat) :
    Memory.read m a = Memory.read s.fb a := by
  obtain ⟨_, hdisjoint, _⟩ := Proofs.windowsPartitionFrame s hs
  refine h.read_outside ?_
  rintro ⟨hklo, hkhi⟩
  obtain ⟨heq, _⟩ := hdisjoint i k a hi hk hlo hhi hklo hkhi
  exact hik heq

/-- One more slot. -/
theorem Sent.step {s u v : State} {k : Nat} (h : Sent s k u) (hs : s.TableInv) (hk : k < s.muxCount.toNat)
    (hv : sendDispatch k u = .done v) : Sent s (k + 1) v := by
  have htable := h.frame.tableEq
  have hslot := htable.slotAt
  have hcount : u.muxCount = s.muxCount := by rw [h.frame]
  have hframe : DispatchFrame u v := by simpa only [hv, Walk.state_done] using sendDispatch_frame k u
  have hfb : WritesWindow u k v.fb := by simpa only [hv, Walk.state_done] using sendDispatch_fb k u
  have hengines (e : Nat) : v.rdoAt e = Rdo.advanced^[s.engineSends (k + 1) e] (s.rdoAt e) := by
    rw [sendDispatch_done_rdoAt hv, hslot, engineSends_succ hs hk, h.engines]
    split
    · rw [Function.iterate_succ_apply']
    · rfl
  refine ⟨h.frame.trans hframe, hengines, fun i hi hsend => ?_⟩
  rcases Nat.lt_succ_iff_lt_or_eq.1 hi with hlt | rfl
  · obtain ⟨hsize, hiB, loB, hbytes, hread0, hread1⟩ := h.carried i hlt hsend
    have hkept {a : Nat} (hlo : (s.slotAt i).index.toNat ≤ a) (hhi : a < (s.slotAt i).index.toNat + 2) :
        Memory.read v.fb a = Memory.read u.fb a :=
      hfb.read_other (htable.tableInv hs) (i := i) (by rw [hcount]; omega) (by rwa [hcount]) (Nat.ne_of_lt hlt)
        (by rwa [hslot]) (by rw [hslot, hsize]; exact hhi)
    exact ⟨hsize, hiB, loB, hbytes, (hkept (by omega) (by omega)).trans hread0,
      (hkept (by omega) (by omega)).trans hread1⟩
  · rw [← hengines, ← hslot i]
    exact sendDispatch_done_holdsOffset hv (by rwa [hslot])

/-! ### Answers -/

/-- An engine's slot asks no client. -/
theorem sendClients_cons_engine {c : Config} {d : Slot} (hsend : d.send = 1#8) (ds : List Slot) :
    sendClients c (d :: ds) = sendClients c ds :=
  List.filter_cons_of_neg (by simp [hsend])

theorem sendClients_cons_client {c : Config} {d : Slot} (hsend : d.send ≠ 1#8) (hext : isExternal c d.send)
    (ds : List Slot) : sendClients c (d :: ds) = d :: sendClients c ds :=
  List.filter_cons_of_pos (decide_eq_true ⟨hsend, hext⟩)

/-- Answers that fit hold the first slot's, of its size, and those of the others. -/
theorem answersFit_cons {d : Slot} {ds : List Slot} {bss : List (List Byte)} (h : answersFit (d :: ds) bss) :
    ∃ bs bss', bss = bs :: bss' ∧ bs.length = d.size.toNat ∧ answersFit ds bss' := by
  cases bss with
  | nil => cases h
  | cons bs bss =>
    obtain ⟨hlen, hrest⟩ := List.cons.inj h
    exact ⟨bs, bss, rfl, hlen, hrest⟩

/-- The clients of `u` hold the answers for the slots of `s` from `k` on, and then `rest`. -/
def AnswersFrom (s : State) (rest : List ClientRsp) (k : Nat) (u : State) : Prop :=
  ∃ bss, answersFit (sendClients s.cfg (s.registered.drop k)) bss ∧ u.clients = bss.map .sendRsp ++ rest

/-- A bound slot's dispatch completes when its answer is there, and takes no other. -/
theorem Sent.completes {s u : State} {k : Nat} {rest : List ClientRsp} (h : Sent s k u) (hs : s.TableInv)
    (hbound : sendBound s) (hk : k < s.muxCount.toNat) (hanswers : AnswersFrom s rest k u) :
    ∃ v, sendDispatch k u = .done v ∧ AnswersFrom s rest (k + 1) v := by
  obtain ⟨bss, hfit, hclients⟩ := hanswers
  have hslot : u.slotAt k = s.slotAt k := h.frame.tableEq.slotAt k
  have hcfg : u.cfg = s.cfg := by rw [h.frame]
  rw [hs.registered_drop hk] at hfit
  rcases hbound _ (hs.slotAt_mem hk) with ⟨hsend, hinst, hvalid, hsize⟩ | ⟨hsend, hext⟩
  · rw [sendClients_cons_engine hsend] at hfit
    have hready : engineReady u (s.slotAt k) :=
      ⟨by rwa [hcfg], by rwa [h.engines, advanced_iterate_valid], hsize⟩
    exact ⟨_, sendDispatch_of_engine (by rwa [hslot]) (by rwa [hslot]), bss, hfit, hclients⟩
  · rw [sendClients_cons_client hsend hext] at hfit
    obtain ⟨bs, bss, rfl, hlen, hrest⟩ := answersFit_cons hfit
    exact ⟨_, sendDispatch_of_client (by rwa [hslot]) (by rwa [hcfg, hslot]) hclients (by rwa [hslot]),
      bss, hrest, rfl⟩

/-- The dispatches of a MUX_SEND complete when every send handler is bound and every client answers, and take no
answer but theirs (43_multiplexer.md rules R191, R193). -/
theorem walkSlots_send_done {s : State} {bss : List (List Byte)} {rest : List ClientRsp} (hs : s.TableInv)
    (hbound : sendBound s) (hfit : answersFit (sendClients s.cfg s.registered) bss)
    (hclients : s.clients = bss.map .sendRsp ++ rest) :
    ∃ u, walkSlots sendDispatch s.muxCount.toNat 0 s = .done u ∧ Sent s s.muxCount.toNat u ∧
      AnswersFrom s rest s.muxCount.toNat u := by
  obtain ⟨u, hu, hall⟩ := walkSlots_completes (dispatch := sendDispatch) (n := s.muxCount.toNat) (i := 0)
    (P := fun k u => Sent s k u ∧ AnswersFrom s rest k u) ⟨.start s, bss, hfit, hclients⟩
    fun k u hk ⟨hsent, hanswers⟩ => by
      rw [Nat.zero_add] at hk
      obtain ⟨v, hv, hnext⟩ := hsent.completes hs hbound hk hanswers
      exact ⟨v, hv, hsent.step hs hk hv, hnext⟩
  rw [Nat.zero_add] at hall
  exact ⟨u, hu, hall⟩

/-! ### Receive dispatches that complete -/

/-- A receive dispatch that completes changes an engine's offset at most, and only where its slot names it for
port 1 (42_rdo_client.md rules R167, R168). -/
theorem recvDispatch_done_rdoAt {i : Nat} {s t : State} (h : recvDispatch i s = .done t) (e : Nat) :
    t.rdoAt e = { s.rdoAt e with offset := (t.rdoAt e).offset } ∧
      (((s.slotAt i).recv = 1#8 → (s.slotAt i).inst.toNat ≠ e) → t.rdoAt e = s.rdoAt e) := by
  rcases recvDispatch_cases i s with ⟨c, hd⟩ | ⟨hrecv, hiB, loB, ⟨_, hvalid, _⟩, _, _, hd⟩ |
    ⟨_, _, _, _, ⟨_, _, hd⟩ | hd⟩ <;> cases hd.symm.trans h
  · by_cases he : (s.slotAt i).inst.toNat = e
    · rw [← he, setRdo_rdoAt_same _ _ _ (lt_of_rdoAt_valid hvalid)]
      exact ⟨rfl, fun hnot => absurd rfl (hnot hrecv)⟩
    · rw [setRdo_rdoAt_ne _ _ _ _ (Ne.symm he)]
      exact ⟨rfl, fun _ => rfl⟩
  · exact ⟨rfl, fun _ => rfl⟩

/-- A receive dispatch to port 1 that completes stores its window's two bytes, not reduced (42_rdo_client.md
rules R167, R168). -/
theorem recvDispatch_done_holdsOffset {i : Nat} {s t : State} (h : recvDispatch i s = .done t)
    (hrecv : (s.slotAt i).recv = 1#8) :
    Memory.HoldsOffset s.fb (s.slotAt i).index.toNat (t.rdoAt (s.slotAt i).inst.toNat).offset := by
  rcases recvDispatch_cases i s with ⟨c, hd⟩ | ⟨_, hiB, loB, ⟨_, hvalid, _⟩, hread0, hread1, hd⟩ | ⟨hne, _⟩
  · cases hd.symm.trans h
  · cases hd.symm.trans h
    rw [setRdo_rdoAt_same _ _ _ (lt_of_rdoAt_valid hvalid)]
    exact ⟨hiB, loB, rfl, hread0, hread1⟩
  · exact absurd hrecv hne

/-! ### What the first slots of a MUX_RECV have done -/

/-- `u` is where MUX_RECV from `s` stands after `k` slots: FB is as before, and an engine differs in its offset
only, which is what the last of those slots that names it for port 1 holds (42_rdo_client.md rules R167, R168). -/
structure Received (s : State) (k : Nat) (u : State) : Prop where
  frame : DispatchFrame s u
  fb : u.fb = s.fb
  kept : ∀ e, u.rdoAt e = { s.rdoAt e with offset := (u.rdoAt e).offset }
  untouched : ∀ e, (∀ i, i < k → (s.slotAt i).recv = 1#8 → (s.slotAt i).inst.toNat ≠ e) → u.rdoAt e = s.rdoAt e
  stored : ∀ i, i < k → (s.slotAt i).recv = 1#8 →
    (∀ j, i < j → j < k → (s.slotAt j).recv = 1#8 → (s.slotAt j).inst ≠ (s.slotAt i).inst) →
    Memory.HoldsOffset s.fb (s.slotAt i).index.toNat (u.rdoAt (s.slotAt i).inst.toNat).offset

theorem Received.start (s : State) : Received s 0 s where
  frame := .refl s
  fb := rfl
  kept _ := rfl
  untouched _ _ := rfl
  stored _ hi := absurd hi (Nat.not_lt_zero _)

/-- One more slot. -/
theorem Received.step {s u v : State} {k : Nat} (h : Received s k u) (hv : recvDispatch k u = .done v) :
    Received s (k + 1) v := by
  have hslot : u.slotAt k = s.slotAt k := h.frame.tableEq.slotAt k
  have hframe : DispatchFrame u v := by simpa only [hv, Walk.state_done] using recvDispatch_frame k u
  have hfb : v.fb = u.fb := by simpa only [hv, Walk.state_done] using recvDispatch_fb k u
  have hother {e : Nat} (hnot : (s.slotAt k).recv = 1#8 → (s.slotAt k).inst.toNat ≠ e) : v.rdoAt e = u.rdoAt e :=
    (recvDispatch_done_rdoAt hv e).2 (by rwa [hslot])
  refine ⟨h.frame.trans hframe, hfb.trans h.fb, fun e => ?kept, fun e hnot => ?untouched,
    fun i hi hrecv hlast => ?stored⟩
  case kept =>
    rw [(recvDispatch_done_rdoAt hv e).1, h.kept e]
  case untouched =>
    rw [hother (hnot k k.lt_succ_self), h.untouched e fun i hi => hnot i (Nat.lt_succ_of_lt hi)]
  case stored =>
    rcases Nat.lt_succ_iff_lt_or_eq.1 hi with hlt | rfl
    · rw [hother fun hk heq => hlast k hlt k.lt_succ_self hk (BitVec.eq_of_toNat_eq heq)]
      exact h.stored i hlt hrecv fun j hij hjk => hlast j hij (Nat.lt_succ_of_lt hjk)
    · rw [← h.fb, ← hslot]
      exact recvDispatch_done_holdsOffset hv (by rwa [hslot])

/-- A MUX_RECV that completes with OK has completed every dispatch (43_multiplexer.md rules R188, R194). -/
theorem exec_muxRecv_done {s t : State} (h : exec .muxRecv s = .next t) (hbusy : t.busy = none)
    (hcode : t.status.code = 0x00#8) :
    ∃ u, walkSlots recvDispatch s.muxCount.toNat 0 s = .done u ∧ t.rdo = u.rdo := by
  have hfault (c : FaultCode) : t.status.code ≠ c.byte := hcode ▸ outcome_byte_ne .ok c
  rcases execMuxRecv_cases s with ⟨c, hx⟩ | ⟨_, _, _, _, hx⟩
  · rw [raise_next.1 (hx.symm.trans h)] at hfault
    exact absurd rfl (hfault c)
  · rcases endRecv_cases (walkSlots recvDispatch s.muxCount.toNat 0 s) with
      ⟨u, hu, hend⟩ | ⟨c, u, _, hend⟩ | ⟨q, u, _, hend⟩ <;> have hnext := hend.symm.trans (hx.symm.trans h)
    · rw [complete_next.1 hnext]
      exact ⟨u, hu, rfl⟩
    · rw [raise_next.1 hnext] at hfault
      exact absurd rfl (hfault c)
    · cases hnext
      cases hbusy

end Sys2Proof.Machine

namespace Sys2Proof.Proofs
open Sys2Proof.Machine

/-- Settles O35: the run completes (`walkSlots_send_done`), and `Sent` says what it did; a slot after which no
other sends its engine carries the offset of the end, since no later send counts. -/
theorem muxSendWritesEngineOffsets : Obligations.MuxSendWritesEngineOffsets := by
  intro s t bss rest hs hengines hstate hbound hfit hclients h
  obtain ⟨u, hu, hsent, _⟩ := walkSlots_send_done hs hbound hfit hclients
  have hexec : exec .muxSend s = endSend (walkSlots sendDispatch s.muxCount.toNat 0 s) := needTable_of hstate
  obtain rfl := complete_next.1 ((congrArg endSend hu).symm.trans (hexec.symm.trans h))
  have hroll {d : Slot} (hd : d ∈ s.registered) (hsend : d.send = 1#8) :
      (s.rdoAt d.inst.toNat).rollover ≠ 0#16 := by
    rcases hbound d hd with ⟨_, _, hvalid, _⟩ | ⟨hne, _⟩
    · exact hengines.rollover_at hvalid
    · exact absurd hsend hne
  simp only [setStatus_rdoAt, setRes_rdoAt, setBusy_rdoAt, setStatus_fb, setRes_fb, setBusy_fb]
  refine ⟨fun e n hn => ?advanced, fun i hi hsend => ?carried, fun i hi hsend hlast => ?last⟩
  case advanced =>
    rw [hsent.engines, engineSends_muxCount, hn]
    refine ⟨advanced_iterate_eq n _, fun h0 => by rw [h0]; rfl, fun hne => ?_⟩
    obtain ⟨d, hd, hnames⟩ := List.countP_pos_iff.1 (Nat.pos_of_ne_zero (hn ▸ hne))
    obtain ⟨hsend, rfl⟩ := of_decide_eq_true hnames
    exact advanced_iterate_offset (hroll hd hsend) hne
  case carried =>
    have hne : s.engineSends (i + 1) (s.slotAt i).inst.toNat ≠ 0 := by
      rw [engineSends_succ hs hi, if_pos ⟨hsend, rfl⟩]
      exact Nat.succ_ne_zero _
    obtain ⟨_, hiB, loB, hbytes, hreads⟩ := hsent.carried i hi hsend
    refine ⟨hiB, loB, ?_, hreads⟩
    rw [hbytes, advanced_iterate_offset (hroll (hs.slotAt_mem hi) hsend) hne, sentOffset_eq]
  case last =>
    rw [hsent.engines, engineSends_eq_of_not_sent hs hi (Nat.le_refl _)
      fun j hij hj hjsend heq => hlast j hij hj hjsend (BitVec.eq_of_toNat_eq heq)]
    exact (hsent.carried i hi hsend).2

/-- Settles O38: every dispatch has completed (`exec_muxRecv_done`), and `Received` says what they did. -/
theorem muxRecvStoresOffsets : Obligations.MuxRecvStoresOffsets := by
  intro s t hs h hbusy hcode
  obtain ⟨u, hu, hrdo⟩ := exec_muxRecv_done h hbusy hcode
  have hreceived : Received s (0 + s.muxCount.toNat) u :=
    walkSlots_done_keeps (.start s) (fun _ _ _ _ hk hv => hk.step hv) hu
  rw [Nat.zero_add] at hreceived
  have hat (e : Nat) : t.rdoAt e = u.rdoAt e := by rw [State.rdoAt, hrdo, State.rdoAt]
  simp only [hat]
  exact ⟨hreceived.kept, fun e hnot => hreceived.untouched e fun i hi => hnot _ (hs.slotAt_mem hi),
    hreceived.stored⟩

end Sys2Proof.Proofs
end

section
/-! PROOFS. MUX_INIT and MUX_ADD (43_multiplexer.md section 2), and the layout of the frame (rule R196). One MUX_ADD
that fits is `State.appendSlot` of the descriptor its operands spell; the layout is an induction over the adds. -/

namespace Sys2Proof.Machine

/-! ### Operands -/

/-- The three fields of a packed OPB (30_encoding.md rule R88). -/
theorem opb_fields (rcv snd : Byte) (size : Half) :
    opbSize (rcv ++ snd ++ size) = size ∧ opbSend (rcv ++ snd ++ size) = snd ∧
      opbRecv (rcv ++ snd ++ size) = rcv :=
  ⟨BitVec.extractLsb'_append_eq_right, (extract_above (n := 0)).trans BitVec.extractLsb'_append_eq_right,
    (extract_above (n := 8)).trans <| (extract_above (n := 0)).trans BitVec.extractLsb'_eq_self⟩

theorem opbSize_toNat (b : Word) : (opbSize b).toNat = b.toNat % 2 ^ 16 := by
  rw [opbSize, BitVec.extractLsb'_toNat, Nat.shiftRight_zero]

theorem opbSend_toNat (b : Word) : (opbSend b).toNat = b.toNat / 2 ^ 16 % 2 ^ 8 := by
  rw [opbSend, BitVec.extractLsb'_toNat, Nat.shiftRight_eq_div_pow]

theorem opbRecv_toNat (b : Word) : (opbRecv b).toNat = b.toNat / 2 ^ 24 := by
  rw [opbRecv, BitVec.extractLsb'_toNat, Nat.shiftRight_eq_div_pow, Nat.mod_eq_of_lt (by omega)]

/-- The descriptor MUX_ADD registers for operands `a` and `b` at offset `o` (43_multiplexer.md rule R183). -/
def Slot.ofOperands (a b : Word) (o : Half) : Slot := ⟨a, opbSize b, o, opbSend b, opbRecv b⟩

/-! ### MUX_INIT -/

section
variable {s : State} {a : Word} (hstate : s.muxState = .unconfigured) (ha : s.opa = some a)
include hstate ha

/-- MUX_INIT of more than the frame buffer holds (43_multiplexer.md rule R181). -/
theorem exec_muxInit_tooLarge (h : s.cfg.fbBytes < a.toNat) : exec .muxInit s = raise .badConfig s :=
  (if_neg (not_not.2 hstate)).trans <| (withA_some ha).trans (if_pos h)

/-- MUX_INIT (43_multiplexer.md rule R181). -/
theorem exec_muxInit (h : a.toNat ≤ s.cfg.fbBytes) :
    exec .muxInit s = complete .ok false (s.createTable (a.setWidth 16)) :=
  (if_neg (not_not.2 hstate)).trans <| (withA_some ha).trans (if_neg (not_lt.2 h))

end

/-! ### MUX_ADD -/

section
variable {s : State} {a b : Word} (hstate : s.muxState ≠ .unconfigured) (ha : s.opa = some a) (hb : s.opb = some b)
include hstate ha hb

/-- MUX_ADD to a full table (43_multiplexer.md rule R183). -/
theorem exec_muxAdd_full (hfull : s.muxCount.toNat = s.cfg.muxMaxSlots) :
    exec .muxAdd s = complete .tooManyProtocols false s :=
  (needTable_of hstate).trans <| (withA_some ha).trans <| (withB_some hb).trans (if_pos hfull)

variable (hroom : s.muxCount.toNat ≠ s.cfg.muxMaxSlots)
include hroom

/-- MUX_ADD of a slot that does not fit (43_multiplexer.md rule R183). -/
theorem exec_muxAdd_noSpace (h : s.muxMaxbuf.toNat < s.muxOffset.toNat + (opbSize b).toNat) :
    exec .muxAdd s = complete .noMoreSpace false s :=
  (needTable_of hstate).trans <| (withA_some ha).trans <| (withB_some hb).trans <| (if_neg hroom).trans (if_pos h)

/-- MUX_ADD of a slot that fits (43_multiplexer.md rules R183, R184). -/
theorem exec_muxAdd_fits (h : s.muxOffset.toNat + (opbSize b).toNat ≤ s.muxMaxbuf.toNat) :
    exec .muxAdd s = complete .ok false (s.appendSlot (.ofOperands a b s.muxOffset)) :=
  (needTable_of hstate).trans <| (withA_some ha).trans <| (withB_some hb).trans <| (if_neg hroom).trans
    (if_neg (not_lt.2 h))

end

/-! ### A sequence of adds -/

/-- A table that is created and not built is empty (10_state.md rule R29). -/
theorem State.TableInv.count_of_configured {s : State} (hs : s.TableInv) (h : s.muxState = .configured) :
    s.muxCount.toNat = 0 := by
  by_contra hcount
  have hbuilt : s.muxState = .built := hs.built_iff.2 (Nat.one_le_iff_ne_zero.2 hcount)
  cases h.symm.trans hbuilt

/-- The SIZE fields of the adds (30_encoding.md rule R88). -/
def addedSizes (ops : List (Word × Word)) : List Nat := ops.map fun p => p.2.toNat % 2 ^ 16

/-- `d` is the descriptor the operands `p` spell, with its window at byte `o`. -/
structure Slot.LaidOut (d : Slot) (p : Word × Word) (o : Nat) : Prop where
  inst : d.inst = p.1
  size : d.size.toNat = p.2.toNat % 2 ^ 16
  send : d.send.toNat = p.2.toNat / 2 ^ 16 % 2 ^ 8
  recv : d.recv.toNat = p.2.toNat / 2 ^ 24
  index : d.index.toNat = o

theorem Slot.laidOut_ofOperands (p : Word × Word) (o : Half) : (Slot.ofOperands p.1 p.2 o).LaidOut p o.toNat where
  inst := rfl
  size := opbSize_toNat p.2
  send := opbSend_toNat p.2
  recv := opbRecv_toNat p.2
  index := rfl

/-- What a MUX_ADD that fits leaves for the next one: one more slot, at the old MUX_OFFSET. -/
structure AddedSlot (s : State) (p : Word × Word) (t : State) : Prop where
  table : t.TableInv
  configured : t.muxState ≠ .unconfigured
  cfg : t.cfg = s.cfg
  maxbuf : t.muxMaxbuf = s.muxMaxbuf
  count : t.muxCount.toNat = s.muxCount.toNat + 1
  offset : t.muxOffset.toNat = s.muxOffset.toNat + p.2.toNat % 2 ^ 16
  added : (t.slotAt s.muxCount.toNat).LaidOut p s.muxOffset.toNat
  others : ∀ i, i ≠ s.muxCount.toNat → t.slotAt i = s.slotAt i

theorem exec_muxAdd_addedSlot {s : State} (hs : s.TableInv) (hstate : s.muxState ≠ .unconfigured)
    (p : Word × Word) (hroom : s.muxCount.toNat < s.cfg.muxMaxSlots)
    (hfits : s.muxOffset.toNat + p.2.toNat % 2 ^ 16 ≤ s.muxMaxbuf.toNat) :
    ∃ t, exec .muxAdd { s with opa := some p.1, opb := some p.2 } = .next t ∧ AddedSlot s p t := by
  have hu : ((s.setOpa p.1).setOpb p.2).TableInv := TableEq.tableInv (by simp [TableEq]) hs
  rw [← opbSize_toNat] at hfits
  have hnew : (Slot.ofOperands p.1 p.2 s.muxOffset).LaidOut p s.muxOffset.toNat := Slot.laidOut_ofOperands p _
  generalize hd : Slot.ofOperands p.1 p.2 s.muxOffset = d at hnew
  have hdfits : s.muxOffset.toNat + d.size.toNat ≤ s.muxMaxbuf.toNat := hd ▸ hfits
  have hat : (((s.setOpa p.1).setOpb p.2).appendSlot d).slotAt s.muxCount.toNat = d :=
    appendSlot_slotAt_new _ d (hu.sized.symm ▸ hroom)
  refine ⟨_, exec_muxAdd_fits (s := (s.setOpa p.1).setOpb p.2) hstate rfl rfl hroom.ne hfits, ?_⟩
  rw [setOpb_muxOffset, setOpa_muxOffset, hd]
  exact {
    table := TableEq.tableInv (by simp [TableEq])
      (appendSlot_tableInv hu hroom.ne hdfits (BitVec.eq_of_toNat_eq hnew.index))
    configured := nofun
    cfg := rfl
    maxbuf := rfl
    count := appendSlot_count hu d hroom.ne
    offset := (appendSlot_offset hu hdfits).trans (congrArg (_ + ·) hnew.size)
    added := by rw [setStatus_slotAt, hat]; exact hnew
    others := fun i hi => appendSlot_slotAt_ne _ d i hi }

/-- Adds that fit lay their slots out behind those that are there (43_multiplexer.md rules R184, R196). -/
theorem addSlots_laidOut {s : State} {ops : List (Word × Word)} (hs : s.TableInv)
    (hstate : s.muxState ≠ .unconfigured) (hroom : s.muxCount.toNat + ops.length ≤ s.cfg.muxMaxSlots)
    (hfits : s.muxOffset.toNat + (addedSizes ops).sum ≤ s.muxMaxbuf.toNat) :
    ∃ t, addSlots ops s = .next t ∧ t.muxCount.toNat = s.muxCount.toNat + ops.length ∧
      t.muxOffset.toNat = s.muxOffset.toNat + (addedSizes ops).sum ∧
      (∀ i, i < s.muxCount.toNat → t.slotAt i = s.slotAt i) ∧
      ∀ i p, ops[i]? = some p → (t.slotAt (s.muxCount.toNat + i)).LaidOut p
        (s.muxOffset.toNat + (addedSizes (ops.take i)).sum) := by
  induction ops generalizing s with
  | nil => exact ⟨s, rfl, rfl, rfl, fun _ _ => rfl, nofun⟩
  | cons q ops ih =>
    have hsum : (addedSizes (q :: ops)).sum = q.2.toNat % 2 ^ 16 + (addedSizes ops).sum := List.sum_cons
    rw [List.length_cons] at hroom
    rw [hsum] at hfits
    obtain ⟨u, hu, hadd⟩ := exec_muxAdd_addedSlot hs hstate q (by omega) (by omega)
    obtain ⟨t, ht, hcount, hoffset, hkept, hlaid⟩ := ih hadd.table hadd.configured
      (by rw [hadd.count, hadd.cfg]; omega) (by rw [hadd.offset, hadd.maxbuf]; omega)
    rw [hadd.count] at hcount hkept hlaid
    rw [hadd.offset] at hoffset hlaid
    refine ⟨t, ?run, by rw [hcount, List.length_cons]; omega, by rw [hoffset, hsum]; omega,
      fun i hi => (hkept i (by omega)).trans (hadd.others i (Nat.ne_of_lt hi)), fun i p hp => ?laid⟩
    case run => rw [addSlots, hu]; exact ht
    case laid =>
      cases i with
      | zero =>
        obtain rfl : q = p := Option.some.inj hp
        rw [Nat.add_zero, hkept _ (Nat.lt_succ_self _)]
        exact hadd.added
      | succ i =>
        have hrest : (addedSizes ((q :: ops).take (i + 1))).sum =
          q.2.toNat % 2 ^ 16 + (addedSizes (ops.take i)).sum := List.sum_cons
        rw [hrest, ← Nat.add_assoc, ← Nat.add_assoc, Nat.add_right_comm]
        exact hlaid i p hp

end Sys2Proof.Machine

namespace Sys2Proof.Proofs
open Sys2Proof.Machine

/-- Settles O30: a legal FB_BYTES is below `2^16`, so the maximum is stored whole. -/
theorem muxInitResult : Obligations.MuxInitResult := by
  refine ⟨⟨rfl, checksFirst _⟩, fun s a hlegal hstate ha => ⟨fun hlarge => ?tooLarge, fun hle => ?create⟩⟩
  case tooLarge => exact (exec_muxInit_tooLarge hstate ha hlarge).trans (raise_eq .badConfig s)
  case create =>
    obtain ⟨_, ⟨_, hfb⟩, _⟩ := hlegal
    refine ⟨a.setWidth 16, ?_, exec_muxInit hstate ha hle⟩
    rw [BitVec.toNat_setWidth, Nat.mod_eq_of_lt (by omega)]

/-- Settles O31: OPB holds the fields it is packed from (`opb_fields`), and a slot that fits wraps neither counter
(`appendSlot_count`, `appendSlot_offset`). -/
theorem muxAddResult : Obligations.MuxAddResult := by
  refine ⟨⟨rfl, checksFirst _⟩, fun s inst size snd rcv hs hstate ha hb => ?_⟩
  obtain ⟨hsize, hsend, hrecv⟩ := opb_fields rcv snd size
  refine ⟨fun hfull => exec_muxAdd_full hstate ha hb hfull,
    fun hroom hover => exec_muxAdd_noSpace hstate ha hb hroom (by rwa [hsize]), fun hroom hfits => ?fits⟩
  case fits =>
    have hslot : Slot.ofOperands inst (rcv ++ snd ++ size) s.muxOffset = ⟨inst, size, s.muxOffset, snd, rcv⟩ := by
      rw [Slot.ofOperands, hsize, hsend, hrecv]
    have hlt : s.muxCount.toNat < s.slots.length := hs.sized.symm ▸ Nat.lt_of_le_of_ne hs.count_le hroom
    have hexec := exec_muxAdd_fits hstate ha hb hroom (by rwa [hsize])
    rw [hslot] at hexec
    exact ⟨_, hexec, rfl, appendSlot_slotAt_new s _ hlt, fun i hi => appendSlot_slotAt_ne s _ i hi,
      appendSlot_count hs ⟨inst, size, s.muxOffset, snd, rcv⟩ hroom, appendSlot_offset hs hfits⟩

/-- Settles O32: `addSlots_laidOut` from an empty table, whose MUX_COUNT and MUX_OFFSET are 0. -/
theorem addsLayOutTheFrame : Obligations.AddsLayOutTheFrame := by
  intro s ops hs hstate hlen hsum
  have hcount := hs.count_of_configured hstate
  have hoffset : s.muxOffset.toNat = 0 := by rw [hs.offset_eq, hcount, frameLen_zero]
  obtain ⟨t, ht, htcount, htoffset, _, hlaid⟩ := addSlots_laidOut (ops := ops) hs (by rw [hstate]; nofun)
    (by rwa [hcount, Nat.zero_add]) (by rwa [hoffset, Nat.zero_add])
  simp only [hcount, hoffset, Nat.zero_add] at htcount htoffset hlaid
  refine ⟨t, ht, htcount, htoffset, fun i p hp => ?_⟩
  obtain ⟨hinst, hsize, hsend, hrecv, hindex⟩ := hlaid i p hp
  exact ⟨hinst, hsize, hsend, hrecv, hindex⟩

end Sys2Proof.Proofs
end

section
/-! PROOFS. The faults of MUX_RECV and of a dispatch (43_multiplexer.md rules R188, R190 to R192, R194). A dispatch
that faults has changed nothing, and the run of its command ends there (`walkSlots_stop`). -/

namespace Sys2Proof.Machine

/-! ### Unwritten bytes -/

/-- Reading several bytes fails where one of them is unwritten (43_multiplexer.md rule R192). -/
theorem Memory.readBytes_eq_none_iff (m : Memory) (a n : Nat) :
    Memory.readBytes m a n = none ↔ ∃ j, j < n ∧ Memory.read m (a + j) = none := by
  induction n generalizing a with
  | zero => simp
  | succ n ih =>
    have hrest : Memory.readBytes m (a + 1) n = none ↔ ∃ j, j < n ∧ Memory.read m (a + (j + 1)) = none := by
      rw [ih]
      simp only [Nat.add_assoc, Nat.add_comm 1]
    rw [Nat.exists_lt_succ_left, ← hrest, Memory.readBytes, Nat.add_zero]
    cases Memory.read m a <;> cases Memory.readBytes m (a + 1) n <;> simp

/-- The bytes in the window of slot `d`; `none` while one of them is unwritten (43_multiplexer.md rule R192). -/
def State.window (s : State) (d : Slot) : Option (List Byte) :=
  Memory.readBytes s.fb d.index.toNat d.size.toNat

theorem window_eq_none_iff {s : State} {d : Slot} :
    s.window d = none ↔ ∃ j, j < d.size.toNat ∧ Memory.read s.fb (d.index.toNat + j) = none :=
  Memory.readBytes_eq_none_iff _ _ _

/-! ### Dispatches to port 1 -/

/-- The fault the checks of a dispatch to port 1 raise at slot `d` (42_rdo_client.md rules R166, R167). -/
abbrev EngineFault (s : State) (d : Slot) (c : FaultCode) : Prop :=
  (s.cfg.rdoCount ≤ d.inst.toNat ∧ c = .unboundHandler) ∨
    (d.inst.toNat < s.cfg.rdoCount ∧ (s.rdoAt d.inst.toNat).valid = false ∧ c = .notInitialised) ∨
    (d.inst.toNat < s.cfg.rdoCount ∧ (s.rdoAt d.inst.toNat).valid = true ∧ d.size ≠ 2#16 ∧ c = .sizeMismatch)

theorem needEngine_of_fault {s : State} {d : Slot} {c : FaultCode} {k : Walk} (h : EngineFault s d c) :
    needEngine d s k = .stop c s := by
  rcases h with ⟨hinst, rfl⟩ | ⟨hinst, hvalid, rfl⟩ | ⟨hinst, hvalid, hsize, rfl⟩
  · exact if_pos hinst
  · exact (if_neg (not_le.2 hinst)).trans (if_pos hvalid)
  · exact (if_neg (not_le.2 hinst)).trans <| (if_neg (by simp [hvalid])).trans (if_pos hsize)

theorem needEngine_of_ready {s : State} {d : Slot} {k : Walk} (h : engineReady s d) : needEngine d s k = k := by
  obtain ⟨hinst, hvalid, hsize⟩ := h
  exact (if_neg (not_le.2 hinst)).trans <| (if_neg (by simp [hvalid])).trans (if_neg (not_not.2 hsize))

theorem sendDispatch_eq_rdoSend {i : Nat} {s : State} (h : (s.slotAt i).send = 1#8) :
    sendDispatch i s = rdoSend (s.slotAt i) s := if_pos h

theorem recvDispatch_eq_rdoRecv {i : Nat} {s : State} (h : (s.slotAt i).recv = 1#8) :
    recvDispatch i s = rdoRecv (s.slotAt i) s := if_pos h

/-- The engine's two bytes are checked for written marks (42_rdo_client.md rule R167). -/
theorem rdoRecv_unwritten {s : State} {d : Slot} (hready : engineReady s d) (h : s.window d = none) :
    rdoRecv d s = .stop .unwrittenRead s := by
  refine (needEngine_of_ready hready).trans ?_
  obtain ⟨_, _, hsize⟩ := hready
  rw [window_eq_none_iff, hsize] at h
  obtain ⟨j, hj, hnone⟩ := h
  obtain rfl | rfl : j = 0 ∨ j = 1 := Nat.le_one_iff_eq_zero_or_eq_one.1 (Nat.le_of_lt_succ hj)
  · rw [Nat.add_zero] at hnone
    rw [hnone]
  · rw [hnone]
    cases Memory.read s.fb d.index.toNat <;> rfl

/-! ### Dispatches to external ports -/

theorem sendDispatch_unbound {i : Nat} {s : State} (hsend : (s.slotAt i).send ≠ 1#8)
    (hext : ¬ isExternal s.cfg (s.slotAt i).send) : sendDispatch i s = .stop .unboundHandler s :=
  (if_neg hsend).trans (if_neg hext)

theorem recvDispatch_unbound {i : Nat} {s : State} (hrecv : (s.slotAt i).recv ≠ 1#8)
    (hext : ¬ isExternal s.cfg (s.slotAt i).recv) : recvDispatch i s = .stop .unboundHandler s :=
  (if_neg hrecv).trans (if_neg hext)

/-- A client is not asked while a byte of its window is unwritten (43_multiplexer.md rule R192). -/
theorem recvDispatch_client_unwritten {i : Nat} {s : State} (hrecv : (s.slotAt i).recv ≠ 1#8)
    (hext : isExternal s.cfg (s.slotAt i).recv) (h : s.window (s.slotAt i) = none) :
    recvDispatch i s = .stop .unwrittenRead s := by
  refine (if_neg hrecv).trans <| (if_pos hext).trans ?_
  rw [State.window] at h
  rw [h]

/-! ### The command stops there -/

/-- A dispatch that faults has changed nothing. -/
theorem sendDispatch_stop_eq {i : Nat} {s t : State} {c : FaultCode} (h : sendDispatch i s = .stop c t) : t = s := by
  rcases sendDispatch_cases i s with ⟨_, hd⟩ | ⟨_, _, hd⟩ | ⟨_, _, ⟨_, _, _, _, hd⟩ | hd⟩ <;> cases hd.symm.trans h
  rfl

theorem recvDispatch_stop_eq {i : Nat} {s t : State} {c : FaultCode} (h : recvDispatch i s = .stop c t) : t = s := by
  rcases recvDispatch_cases i s with ⟨_, hd⟩ | ⟨_, _, _, _, _, _, hd⟩ | ⟨_, _, _, _, ⟨_, _, hd⟩ | hd⟩ <;>
    cases hd.symm.trans h
  rfl

/-- A run is its first `m` dispatches and then the others. -/
theorem walkSlots_add (dispatch : Nat → State → Walk) (m n i : Nat) (s : State) :
    walkSlots dispatch (m + n) i s = (walkSlots dispatch m i s).andThen (walkSlots dispatch n (i + m)) := by
  induction m generalizing i s with
  | zero => rw [Nat.zero_add]; rfl
  | succ m ih =>
    rw [Nat.add_right_comm m 1 n, walkSlots_succ, walkSlots_succ, ← Nat.succ_add_eq_add_succ i m]
    cases dispatch i s with
    | done t => exact ih (i + 1) t
    | stop c t => rfl
    | wait q t => rfl

/-- The first dispatch that faults ends the run (43_multiplexer.md rule R194). -/
theorem walkSlots_stop {dispatch : Nat → State → Walk} {n i : Nat} {s u v : State} {c : FaultCode} (hi : i < n)
    (hu : walkSlots dispatch i 0 s = .done u) (hv : dispatch i u = .stop c v) :
    walkSlots dispatch n 0 s = .stop c v := by
  obtain ⟨m, rfl⟩ := Nat.exists_eq_add_of_lt hi
  rw [Nat.add_assoc, walkSlots_add, hu, Walk.andThen_done, walkSlots_succ, Nat.zero_add, hv]
  rfl

/-- The dispatches before a fault have written neither STATUS nor RES (43_multiplexer.md rule R194). -/
theorem walkSlots_done_frame {dispatch : Nat → State → Walk} (hd : ∀ i s, DispatchFrame s (dispatch i s).state)
    {n i : Nat} {s u : State} (h : walkSlots dispatch n i s = .done u) : DispatchFrame s u := by
  simpa only [h, Walk.state_done] using walkSlots_frame hd n i s

/-- A fault after dispatches ends the command with the fault recorded (60_exceptions.md rule R214). -/
theorem raise_after_dispatches {s u : State} (h : DispatchFrame s u) (c : FaultCode) :
    raise c (u.setBusy none) = .next { u with busy := none, status := s.status.faulted c.byte } := by
  have hstatus : s.status = u.status := by rw [h]
  rw [hstatus]
  exact raise_eq c (u.setBusy none)

/-! ### MUX_SEND and MUX_RECV of a table -/

theorem exec_muxSend {s : State} (hstate : s.muxState ≠ .unconfigured) :
    exec .muxSend s = endSend (walkSlots sendDispatch s.muxCount.toNat 0 s) := needTable_of hstate

/-- MUX_RECV of a frame that is not too short (43_multiplexer.md rule R188). -/
theorem exec_muxRecv {s : State} {len : Word} (hstate : s.muxState ≠ .unconfigured) (ha : s.opa = some len)
    (hlen : s.muxOffset.toNat ≤ len.toNat) :
    exec .muxRecv s = endRecv (walkSlots recvDispatch s.muxCount.toNat 0 s) :=
  (needTable_of hstate).trans <| (withA_some ha).trans (if_neg (not_lt.2 hlen))

/-- MUX_RECV of a frame that is too short (43_multiplexer.md rule R188). -/
theorem exec_muxRecv_short {s : State} {len : Word} (hstate : s.muxState ≠ .unconfigured) (ha : s.opa = some len)
    (hlen : len.toNat < s.muxOffset.toNat) : exec .muxRecv s = raise .shortFrame s :=
  (needTable_of hstate).trans <| (withA_some ha).trans (if_pos hlen)

end Sys2Proof.Machine

namespace Sys2Proof.Proofs
open Sys2Proof.Machine

/-- Settles O40: each check of a dispatch in its order; an unwritten byte of the window fails the read of the whole
window (`window_eq_none_iff`). -/
theorem receiveAndDispatchFaults : Obligations.ReceiveAndDispatchFaults := by
  intro s i
  refine ⟨fun len hstate ha hlen => (exec_muxRecv_short hstate ha hlen).trans (raise_eq .shortFrame s),
    fun ⟨hsend, hext⟩ => sendDispatch_unbound hsend hext, fun ⟨hrecv, hext⟩ => recvDispatch_unbound hrecv hext,
    fun c hfault => ⟨fun hsend => ?send, fun hrecv => ?recv⟩, fun ⟨a, hlo, hhi, hnone⟩ hbound => ?unwritten⟩
  case send => exact (sendDispatch_eq_rdoSend hsend).trans (needEngine_of_fault hfault)
  case recv => exact (recvDispatch_eq_rdoRecv hrecv).trans (needEngine_of_fault hfault)
  case unwritten =>
    obtain ⟨j, rfl⟩ := Nat.exists_eq_add_of_le hlo
    have hread : s.window (s.slotAt i) = none :=
      window_eq_none_iff.2 ⟨j, Nat.lt_of_add_lt_add_left hhi, hnone⟩
    rcases hbound with ⟨hrecv, hext⟩ | ⟨hrecv, hready⟩
    · exact recvDispatch_client_unwritten hrecv hext hread
    · exact (recvDispatch_eq_rdoRecv hrecv).trans (rdoRecv_unwritten hready hread)

/-- Settles O41: the run ends at the fault (`walkSlots_stop`), in the state the dispatches before it left. -/
theorem dispatchFaultKeepsEarlierSlots : Obligations.DispatchFaultKeepsEarlierSlots := by
  intro s u v i c hstate hi
  refine ⟨fun hu hv => ?send, fun len ha hlen hu hv => ?recv⟩
  case send =>
    have hframe : DispatchFrame s u := walkSlots_done_frame sendDispatch_frame hu
    rw [exec_muxSend hstate, walkSlots_stop hi hu hv, sendDispatch_stop_eq hv]
    exact ⟨raise_after_dispatches hframe c, by rw [hframe]⟩
  case recv =>
    have hframe : DispatchFrame s u := walkSlots_done_frame recvDispatch_frame hu
    rw [exec_muxRecv hstate ha hlen, walkSlots_stop hi hu hv, recvDispatch_stop_eq hv]
    exact ⟨raise_after_dispatches hframe c, by rw [hframe]⟩

end Sys2Proof.Proofs
end

section
/-! PROOFS. MUX_SEND and the clients (43_multiplexer.md rules R186, R191, R193). The first slots of a run have taken
some answers, which stand in their windows (`Answered`); a run that completes has taken them all (`SendDone`). -/

namespace Sys2Proof.Machine

/-! ### Windows -/

/-- Reading several bytes looks at those bytes only. -/
theorem Memory.readBytes_congr {m m' : Memory} {a n : Nat}
    (h : ∀ j, j < n → Memory.read m (a + j) = Memory.read m' (a + j)) :
    Memory.readBytes m a n = Memory.readBytes m' a n := by
  ext1 bs
  rw [Memory.readBytes_eq_some, Memory.readBytes_eq_some]
  exact and_congr_right fun _ => forall₂_congr fun j hj => by rw [h j hj]

/-- The bytes just written are what is read back. -/
theorem Memory.readBytes_writeBytes (m : Memory) (a : Nat) (bs : List Byte) :
    Memory.readBytes (Memory.writeBytes m a bs) a bs.length = some bs :=
  (Memory.readBytes_eq_some _ _ _ _).2 ⟨rfl, fun j hj => Memory.read_writeBytes_inside m a j bs hj⟩

/-- What a window of two bytes holds, byte by byte (42_rdo_client.md rule R166). -/
theorem window_of_reads {s : State} {d : Slot} {hi lo : Byte} (hsize : d.size = 2#16)
    (h0 : Memory.read s.fb d.index.toNat = some hi) (h1 : Memory.read s.fb (d.index.toNat + 1) = some lo) :
    s.window d = some [hi, lo] := by
  rw [State.window, hsize]
  simp [Memory.readBytes, h0, h1]

theorem State.TableInv.registered_take_succ {s : State} (hs : s.TableInv) {k : Nat} (hk : k < s.muxCount.toNat) :
    s.registered.take (k + 1) = s.registered.take k ++ [s.slotAt k] := by
  rw [List.take_add_one, hs.registered_getElem? hk]
  rfl

/-- Every registered descriptor stands at some slot (10_state.md rule R31). -/
theorem State.TableInv.exists_slotAt {s : State} (hs : s.TableInv) {k : Nat} (hk : k ≤ s.muxCount.toNat) {d : Slot}
    (hd : d ∈ s.registered.take k) : ∃ i, i < k ∧ s.slotAt i = d := by
  obtain ⟨i, hi⟩ := List.mem_iff_getElem?.1 hd
  obtain ⟨hlen, _⟩ := List.getElem?_eq_some_iff.1 hi
  have hlt : i < k := hlen.trans_le (List.length_take_le _ _)
  rw [List.getElem?_take_of_lt hlt, hs.registered_getElem? (hlt.trans_le hk)] at hi
  exact ⟨i, hlt, Option.some.inj hi⟩

theorem sendClients_append (c : Config) (ds es : List Slot) :
    sendClients c (ds ++ es) = sendClients c ds ++ sendClients c es := List.filter_append ..

/-! ### The answers taken -/

/-- A send dispatch that completes has taken the answer of its client, if its slot is a client's, has written it to
the slot's window and issued the slot's request (43_multiplexer.md rule R191). -/
theorem sendDispatch_done_answer {i : Nat} {s t : State} (h : sendDispatch i s = .done t) :
    ∃ as : List (List Byte), s.clients = as.map .sendRsp ++ t.clients ∧
      (sendClients s.cfg [s.slotAt i]).map t.window = as.map some ∧
      t.requests = s.requests ++ (sendClients s.cfg [s.slotAt i]).map sendReqOf := by
  rcases sendDispatch_cases i s with ⟨c, hd⟩ | ⟨hsend, _, hd⟩ | ⟨hsend, hext, ⟨bs, rest, hclients, hlen, hd⟩ | hd⟩ <;>
    cases hd.symm.trans h
  · rw [sendClients_cons_engine hsend]
    exact ⟨[], rfl, rfl, (List.append_nil _).symm⟩
  · rw [sendClients_cons_client hsend hext]
    refine ⟨[bs], hclients, congrArg (fun w => [w]) ?_, rfl⟩
    rw [State.window, ← hlen]
    exact Memory.readBytes_writeBytes _ _ _

/-- A later dispatch leaves the windows of the slots before it (10_state.md rule R32). -/
theorem Sent.window_kept {s u v : State} {k : Nat} (h : Sent s k u) (hs : s.TableInv) (hk : k < s.muxCount.toNat)
    (hv : sendDispatch k u = .done v) {i : Nat} (hi : i < k) : v.window (s.slotAt i) = u.window (s.slotAt i) := by
  have htable := h.frame.tableEq
  have hslot := htable.slotAt
  have hcount : u.muxCount = s.muxCount := by rw [h.frame]
  have hfb : WritesWindow u k v.fb := by simpa only [hv, Walk.state_done] using sendDispatch_fb k u
  rw [← hslot]
  exact Memory.readBytes_congr fun j hj => hfb.read_other (htable.tableInv hs) (by rw [hcount]; omega)
    (by rwa [hcount]) (Nat.ne_of_lt hi) (Nat.le_add_right _ _) (Nat.add_lt_add_left hj _)

/-- `u` is where MUX_SEND from `s` stands after `k` slots: their clients have been asked, in slot order, and have
answered `as`, which stand in their windows. -/
structure Answered (s : State) (k : Nat) (u : State) (as : List (List Byte)) : Prop where
  clients : s.clients = as.map .sendRsp ++ u.clients
  windows : (sendClients s.cfg (s.registered.take k)).map u.window = as.map some
  requests : u.requests = s.requests ++ (sendClients s.cfg (s.registered.take k)).map sendReqOf

theorem Answered.start (s : State) : Answered s 0 s [] := ⟨rfl, rfl, (List.append_nil _).symm⟩

/-- One more slot. -/
theorem Answered.step {s u v : State} {k : Nat} {as : List (List Byte)} (h : Answered s k u as) (hsent : Sent s k u)
    (hs : s.TableInv) (hk : k < s.muxCount.toNat) (hv : sendDispatch k u = .done v) :
    ∃ as', Answered s (k + 1) v as' := by
  have hslot : u.slotAt k = s.slotAt k := hsent.frame.tableEq.slotAt k
  have hcfg : u.cfg = s.cfg := by rw [hsent.frame]
  obtain ⟨bs, hclients, hwindows, hrequests⟩ := sendDispatch_done_answer hv
  rw [hslot, hcfg] at hwindows hrequests
  have hkept : (sendClients s.cfg (s.registered.take k)).map v.window =
      (sendClients s.cfg (s.registered.take k)).map u.window := List.map_congr_left fun d hd => by
    obtain ⟨i, hi, rfl⟩ := hs.exists_slotAt hk.le (List.mem_of_mem_filter hd)
    exact hsent.window_kept hs hk hv hi
  refine ⟨as ++ bs, ?_, ?_, ?_⟩
  · rw [h.clients, hclients, List.map_append, List.append_assoc]
  · rw [hs.registered_take_succ hk, sendClients_append, List.map_append, hkept, h.windows, hwindows,
      List.map_append]
  · rw [hs.registered_take_succ hk, sendClients_append, List.map_append, ← List.append_assoc, ← h.requests,
      hrequests]

/-! ### The whole run -/

/-- `u` is where the dispatches of MUX_SEND from `s` have ended when the clients answer `bss`. -/
structure SendDone (s : State) (bss : List (List Byte)) (rest : List ClientRsp) (u : State) : Prop where
  sent : Sent s s.muxCount.toNat u
  clients : u.clients = rest
  windows : (sendClients s.cfg s.registered).map u.window = bss.map some
  requests : u.requests = s.requests ++ (sendClients s.cfg s.registered).map sendReqOf

/-- The answers taken are those given, if as many (43_multiplexer.md rule R191). -/
theorem Answered.sendDone {s u : State} {as bss : List (List Byte)} {rest : List ClientRsp}
    (h : Answered s s.muxCount.toNat u as) (hsent : Sent s s.muxCount.toNat u)
    (hfit : answersFit (sendClients s.cfg s.registered) bss) (hclients : s.clients = bss.map .sendRsp ++ rest) :
    SendDone s bss rest u := by
  obtain ⟨htaken, hwindows, hrequests⟩ := h
  rw [List.take_of_length_le s.registered_length_le] at hwindows hrequests
  have hlen : as.length = bss.length := by
    have hfitLen := congrArg List.length hfit
    have hwindowsLen := congrArg List.length hwindows
    simp only [List.length_map] at hfitLen hwindowsLen
    exact hwindowsLen.symm.trans hfitLen.symm
  obtain ⟨hanswers, hrest⟩ := List.append_inj (htaken.symm.trans hclients) (by simpa using hlen)
  obtain rfl : as = bss := (List.map_inj_right fun _ _ => ClientRsp.sendRsp.inj).1 hanswers
  exact ⟨hsent, hrest, hwindows, hrequests⟩

/-- The state MUX_SEND ends in after dispatches that end in `u` (43_multiplexer.md rule R186). -/
def State.sendEnd (u : State) : State :=
  ((u.setBusy none).setRes (u.muxOffset.setWidth 32)).setStatus (u.status.complete .ok false)

/-- MUX_SEND completes when every send handler is bound and every client answers. -/
theorem exec_muxSend_completes {s : State} {bss : List (List Byte)} {rest : List ClientRsp} (hs : s.TableInv)
    (hstate : s.muxState ≠ .unconfigured) (hbound : sendBound s)
    (hfit : answersFit (sendClients s.cfg s.registered) bss) (hclients : s.clients = bss.map .sendRsp ++ rest) :
    ∃ u, SendDone s bss rest u ∧ exec .muxSend s = .next u.sendEnd := by
  obtain ⟨u, hu, hsent, _⟩ := walkSlots_send_done hs hbound hfit hclients
  obtain ⟨_, as, hanswered⟩ := walkSlots_done_keeps (P := fun k u => Sent s k u ∧ ∃ as, Answered s k u as)
    ⟨.start s, [], .start s⟩ (fun k u v hk ⟨hsent, as, hanswered⟩ hv => by
      rw [Nat.zero_add] at hk
      exact ⟨hsent.step hs hk hv, hanswered.step hsent hs hk hv⟩) hu
  rw [Nat.zero_add] at hanswered
  exact ⟨u, hanswered.sendDone hsent hfit hclients, (exec_muxSend hstate).trans (congrArg endSend hu)⟩

/-- A command that was not waiting is not waiting at its end. -/
theorem setBusy_none_of_busy {s : State} (h : s.busy = none) : s.setBusy none = s := by
  rw [← h]
  rfl

end Sys2Proof.Machine

namespace Sys2Proof.Proofs
open Sys2Proof.Machine

/-- Settles O33: the run completes (`exec_muxSend_completes`), and its end writes RES and STATUS. -/
theorem muxSendCompletes : Obligations.MuxSendCompletes := by
  intro s bss rest hs hstate hbusy hbound hfit hclients
  obtain ⟨u, ⟨hsent, hrest, _, hrequests⟩, hexec⟩ := exec_muxSend_completes hs hstate hbound hfit hclients
  have hframe := hsent.frame
  have hubusy : u.busy = none := by rw [hframe]; exact hbusy
  refine ⟨_, hexec, ?_⟩
  rw [State.sendEnd, setBusy_none_of_busy hubusy, ← hrest, ← hrequests]
  rw [DispatchFrame] at hframe
  rw [hframe]
  rfl

/-- Settles O34: each answer taken stands in its slot's window at the end (`SendDone.windows`). -/
theorem muxSendWritesAnswers : Obligations.MuxSendWritesAnswers := by
  intro s t bss rest hs hstate hbound hfit hclients h k d bs hd hbs j hj
  obtain ⟨u, hdone, hexec⟩ := exec_muxSend_completes hs hstate hbound hfit hclients
  cases hexec.symm.trans h
  have hwindow : u.window d = some bs := by
    have hat := congrArg (·[k]?) hdone.windows
    simpa only [List.getElem?_map, hd, hbs, Option.map_some, Option.some.injEq] using hat
  obtain ⟨hlen, hread⟩ := (Memory.readBytes_eq_some _ _ _ _).1 hwindow
  exact hread j (hlen ▸ hj)

end Sys2Proof.Proofs
end

section
/-! PROOFS. MUX_RECV and the clients (43_multiplexer.md rules R188, R192, R193). Where the windows are written, every
dispatch of the run completes, and what is still to be asked of the clients shrinks slot by slot (`ToAsk`). -/

namespace Sys2Proof.Machine

/-! ### What a receive handler is passed -/

/-- The bytes slot `d`'s receive handler is passed (43_multiplexer.md rule R192). -/
def State.passed (s : State) (d : Slot) : List Byte := (s.window d).getD []

/-- The RecvReq of slot `d`. -/
def State.recvReq (s : State) (d : Slot) : ClientReq := recvReqOf d (s.passed d)

/-- Every registered window is written. -/
def State.FrameWritten (s : State) : Prop := ∀ d ∈ s.registered, s.window d ≠ none

theorem window_eq_passed {s : State} {d : Slot} (h : s.window d ≠ none) : s.window d = some (s.passed d) := by
  obtain ⟨bs, hbs⟩ := Option.ne_none_iff_exists'.1 h
  rw [State.passed, hbs, Option.getD_some]

theorem passed_of_window {s : State} {d : Slot} {bs : List Byte} (h : s.window d = some bs) : s.passed d = bs := by
  rw [State.passed, h, Option.getD_some]

/-- A window is as long as its slot's SIZE, and holds what stands in FB. -/
theorem passed_spec {s : State} {d : Slot} (h : s.window d ≠ none) :
    (s.passed d).length = d.size.toNat ∧
      ∀ j, j < d.size.toNat → Memory.read s.fb (d.index.toNat + j) = (s.passed d)[j]? :=
  (Memory.readBytes_eq_some _ _ _ _).1 (window_eq_passed h)

/-- Every window lies below MUX_OFFSET (10_state.md rule R32). -/
theorem State.TableInv.window_le_muxOffset {s : State} (hs : s.TableInv) {i : Nat} (hi : i < s.muxCount.toNat) :
    (s.slotAt i).index.toNat + (s.slotAt i).size.toNat ≤ s.muxOffset.toNat := by
  rw [hs.index_eq i hi, hs.offset_eq, State.slotAt, ← frameLen_succ]
  exact frameLen_mono _ hi

theorem State.TableInv.exists_slotAt_of_mem {s : State} (hs : s.TableInv) {d : Slot} (hd : d ∈ s.registered) :
    ∃ i, i < s.muxCount.toNat ∧ s.slotAt i = d := by
  rw [← List.take_of_length_le s.registered_length_le] at hd
  exact hs.exists_slotAt (Nat.le_refl _) hd

/-- A frame written up to MUX_OFFSET has every window written. -/
theorem State.TableInv.frameWritten {s : State} (hs : s.TableInv)
    (h : ∀ a, a < s.muxOffset.toNat → Memory.read s.fb a ≠ none) : s.FrameWritten := by
  intro d hd hnone
  obtain ⟨i, hi, rfl⟩ := hs.exists_slotAt_of_mem hd
  obtain ⟨j, hj, hread⟩ := window_eq_none_iff.1 hnone
  exact h _ ((Nat.add_lt_add_left hj _).trans_le (hs.window_le_muxOffset hi)) hread

/-! ### Receive dispatches that complete -/

/-- A receive dispatch to an engine that is ready and whose window is written asks no client (42_rdo_client.md rule
R167). -/
theorem recvDispatch_of_engine {i : Nat} {s : State} (hrecv : (s.slotAt i).recv = 1#8)
    (hready : engineReady s (s.slotAt i)) (hwritten : s.window (s.slotAt i) ≠ none) :
    ∃ t, recvDispatch i s = .done t ∧ t.clients = s.clients ∧ t.requests = s.requests := by
  rw [recvDispatch_eq_rdoRecv hrecv, rdoRecv, needEngine_of_ready hready]
  obtain ⟨_, _, hsize⟩ := hready
  have hwrittenAt {j : Nat} (hj : j < 2) : Memory.read s.fb ((s.slotAt i).index.toNat + j) ≠ none := fun hnone =>
    hwritten (window_eq_none_iff.2 ⟨j, by rwa [hsize], hnone⟩)
  obtain ⟨hiB, hhi⟩ := Option.ne_none_iff_exists'.1 (hwrittenAt Nat.two_pos)
  obtain ⟨loB, hlo⟩ := Option.ne_none_iff_exists'.1 (hwrittenAt Nat.one_lt_two)
  rw [Nat.add_zero] at hhi
  rw [hhi, hlo]
  exact ⟨_, rfl, rfl, rfl⟩

theorem takeRecvAck_of {i : Nat} {s : State} {rest : List ClientRsp} (h : s.clients = .recvAck :: rest) :
    takeRecvAck i s = .done (s.setClients rest) := by
  rw [takeRecvAck, h]

/-- A receive dispatch to an external client that has acknowledged (43_multiplexer.md rule R192). -/
theorem recvDispatch_of_client {i : Nat} {s : State} {rest : List ClientRsp} (hrecv : (s.slotAt i).recv ≠ 1#8)
    (hext : isExternal s.cfg (s.slotAt i).recv) (hwritten : s.window (s.slotAt i) ≠ none)
    (hclients : s.clients = .recvAck :: rest) :
    recvDispatch i s = .done ((s.issue (s.recvReq (s.slotAt i))).setClients rest) := by
  have hwindow := window_eq_passed hwritten
  rw [State.window] at hwindow
  refine (if_neg hrecv).trans <| (if_pos hext).trans ?_
  rw [hwindow]
  exact takeRecvAck_of hclients

/-! ### The whole run -/

theorem recvClients_cons_engine {c : Config} {d : Slot} (hrecv : d.recv = 1#8) (ds : List Slot) :
    recvClients c (d :: ds) = recvClients c ds :=
  List.filter_cons_of_neg (by simp [hrecv])

theorem recvClients_cons_client {c : Config} {d : Slot} (hrecv : d.recv ≠ 1#8) (hext : isExternal c d.recv)
    (ds : List Slot) : recvClients c (d :: ds) = d :: recvClients c ds :=
  List.filter_cons_of_pos (decide_eq_true ⟨hrecv, hext⟩)

/-- At `u`, MUX_RECV from `s` has still to ask the clients of the slots from `k` on, whose acknowledgements are
there. -/
structure ToAsk (s : State) (rest : List ClientRsp) (k : Nat) (u : State) : Prop where
  clients : u.clients = List.replicate (recvClients s.cfg (s.registered.drop k)).length .recvAck ++ rest
  requests : u.requests ++ (recvClients s.cfg (s.registered.drop k)).map s.recvReq =
    s.requests ++ (recvClients s.cfg s.registered).map s.recvReq

/-- A bound slot's dispatch completes where its window is written and its acknowledgement is there. -/
theorem Received.completes {s u : State} {k : Nat} {rest : List ClientRsp} (h : Received s k u) (hs : s.TableInv)
    (hbound : recvBound s) (hwritten : s.FrameWritten) (hk : k < s.muxCount.toNat) (hask : ToAsk s rest k u) :
    ∃ v, recvDispatch k u = .done v ∧ ToAsk s rest (k + 1) v := by
  obtain ⟨hclients, hrequests⟩ := hask
  have hslot : u.slotAt k = s.slotAt k := h.frame.tableEq.slotAt k
  have hcfg : u.cfg = s.cfg := by rw [h.frame]
  have hwindow (d : Slot) : u.window d = s.window d := by rw [State.window, h.fb, State.window]
  have hmem := hs.slotAt_mem hk
  have hkWritten : u.window (u.slotAt k) ≠ none := by rw [hslot, hwindow]; exact hwritten _ hmem
  rw [hs.registered_drop hk] at hclients hrequests
  rcases hbound _ hmem with ⟨hrecv, hinst, hvalid, hsize⟩ | ⟨hrecv, hext⟩
  · rw [recvClients_cons_engine hrecv] at hclients hrequests
    have hready : engineReady u (s.slotAt k) := ⟨by rwa [hcfg], by rwa [h.kept], hsize⟩
    obtain ⟨v, hv, hvclients, hvrequests⟩ :=
      recvDispatch_of_engine (by rwa [hslot]) (by rwa [hslot]) hkWritten
    exact ⟨v, hv, hvclients.trans hclients, by rw [hvrequests, hrequests]⟩
  · rw [recvClients_cons_client hrecv hext] at hclients hrequests
    have hreq : u.recvReq (u.slotAt k) = s.recvReq (s.slotAt k) := by
      rw [hslot, State.recvReq, State.passed, hwindow, State.recvReq, State.passed]
    refine ⟨_, recvDispatch_of_client (by rwa [hslot]) (by rwa [hcfg, hslot]) hkWritten hclients, rfl, ?_⟩
    rw [setClients_requests, issue_requests, hreq, List.append_assoc, ← hrequests]
    rfl

/-- `w` is where the dispatches of MUX_RECV from `s` have ended when every client acknowledges. -/
structure RecvDone (s : State) (rest : List ClientRsp) (w : State) : Prop where
  received : Received s s.muxCount.toNat w
  clients : w.clients = rest
  requests : w.requests = s.requests ++ (recvClients s.cfg s.registered).map s.recvReq
  rdo_length : w.rdo.length = s.rdo.length

theorem recvDispatch_rdo_length (i : Nat) (s : State) : (recvDispatch i s).state.rdo.length = s.rdo.length := by
  rcases recvDispatch_cases i s with ⟨c, h⟩ | ⟨_, _, _, _, _, _, h⟩ | ⟨_, _, _, _, ⟨_, _, h⟩ | h⟩ <;> rw [h]
  · rfl
  · exact List.length_set ..
  · rfl
  · rfl

/-- The state MUX_RECV ends in after dispatches that end in `w` (43_multiplexer.md rule R188). -/
def State.recvEnd (w : State) : State := (w.setBusy none).setStatus (w.status.complete .ok false)

/-- MUX_RECV completes when every receive handler is bound, every window is written and every client
acknowledges. -/
theorem exec_muxRecv_completes {s : State} {len : Word} {rest : List ClientRsp} (hs : s.TableInv)
    (hstate : s.muxState ≠ .unconfigured) (hbound : recvBound s) (ha : s.opa = some len)
    (hlen : s.muxOffset.toNat ≤ len.toNat) (hwritten : s.FrameWritten)
    (hclients : s.clients = List.replicate (recvClients s.cfg s.registered).length .recvAck ++ rest) :
    ∃ w, RecvDone s rest w ∧ exec .muxRecv s = .next w.recvEnd := by
  obtain ⟨w, hw, hreceived, hask⟩ := walkSlots_completes (dispatch := recvDispatch) (n := s.muxCount.toNat) (i := 0)
    (P := fun k u => Received s k u ∧ ToAsk s rest k u) ⟨.start s, hclients, rfl⟩
    fun k u hk ⟨hreceived, hask⟩ => by
      rw [Nat.zero_add] at hk
      obtain ⟨v, hv, hnext⟩ := hreceived.completes hs hbound hwritten hk hask
      exact ⟨v, hv, hreceived.step hv, hnext⟩
  have hlength : w.rdo.length = s.rdo.length := by
    simpa only [hw, Walk.state_done] using walkSlots_keeps (P := fun t => t.rdo.length = s.rdo.length)
      (fun i t ht => (recvDispatch_rdo_length i t).trans ht) s.muxCount.toNat 0 s rfl
  rw [Nat.zero_add] at hreceived hask
  obtain ⟨hrest, hrequests⟩ := hask
  rw [List.drop_eq_nil_of_le s.registered_length_le] at hrest hrequests
  exact ⟨w, ⟨hreceived, hrest, (List.append_nil _).symm.trans hrequests, hlength⟩,
    (exec_muxRecv hstate ha hlen).trans (congrArg endRecv hw)⟩

/-- What MUX_RECV changes when it completes (43_multiplexer.md rule R188). -/
theorem RecvDone.recvEnd_eq {s w : State} {rest : List ClientRsp} (h : RecvDone s rest w) (hbusy : s.busy = none) :
    w.recvEnd = { s with status := s.status.ended 0x00#8 false, clients := rest, rdo := w.rdo,
                         requests := s.requests ++ (recvClients s.cfg s.registered).map s.recvReq } := by
  obtain ⟨hreceived, hrest, hrequests, _⟩ := h
  have hframe := hreceived.frame
  have hwbusy : w.busy = none := by rw [hframe]; exact hbusy
  rw [State.recvEnd, setBusy_none_of_busy hwbusy, ← hrest, ← hrequests]
  rw [DispatchFrame, hreceived.fb] at hframe
  rw [hframe]
  rfl

end Sys2Proof.Machine

namespace Sys2Proof.Proofs
open Sys2Proof.Machine

/-- Settles O37: the run completes (`exec_muxRecv_completes`), and each client is passed `State.passed`, the bytes of
its window (`passed_spec`). -/
theorem muxRecvCompletes : Obligations.MuxRecvCompletes := by
  intro s len rest hs hstate hbusy hbound ha hlen hframe hclients
  have hwritten := hs.frameWritten hframe
  obtain ⟨w, hdone, hexec⟩ := exec_muxRecv_completes hs hstate hbound ha hlen hwritten hclients
  have hspec {d : Slot} (hd : d ∈ recvClients s.cfg s.registered) :=
    passed_spec (hwritten d (List.mem_of_mem_filter hd))
  refine ⟨_, (recvClients s.cfg s.registered).map s.passed, hexec, ?state, ?fit, fun k d bs hd hbs j hj => ?window⟩
  case state =>
    rw [List.zipWith_map_right, List.zipWith_self]
    exact hdone.recvEnd_eq hbusy
  case fit =>
    rw [answersFit, List.map_map]
    exact List.map_congr_left fun d hd => (hspec hd).1
  case window =>
    rw [List.getElem?_map, hd, Option.map_some, Option.some.injEq] at hbs
    subst hbs
    obtain ⟨hlength, hread⟩ := hspec (List.mem_of_getElem? hd)
    exact (hread j (hlength ▸ hj)).symm

end Sys2Proof.Proofs
end

section
/-! PROOFS. MUX_SEND and then MUX_RECV of the whole frame (43_multiplexer.md rule R197). A send that completes leaves
every window written (`SendDone.window_ne_none`); a receive of it passes each slot what its window holds, and an engine
whose last receiver is its last sender holds what it held (`Received.rdo_eq_of_sent`). -/

namespace Sys2Proof.Machine

/-! ### Lists -/

/-- Of a table paired with a list made from it, what a condition on the slots picks. -/
theorem filter_zip_map (ds : List Slot) (f : Slot → List Byte) (p : Slot → Bool) :
    (ds.zip (ds.map f)).filter (fun z => p z.1) = (ds.filter p).map fun d => (d, f d) := by
  rw [← List.map_prod_left_eq_zip, List.filter_map]
  rfl

/-- Below a bound either nothing has a property, or something is the last that has it. -/
theorem none_or_exists_last (P : Nat → Prop) (n : Nat) :
    (∀ i, i < n → ¬ P i) ∨ ∃ i, i < n ∧ P i ∧ ∀ j, i < j → j < n → ¬ P j := by
  induction n with
  | zero => exact .inl nofun
  | succ n ih =>
    by_cases hn : P n
    · exact .inr ⟨n, Nat.lt_succ_self n, hn, fun j hnj hjn => absurd hjn (by omega)⟩
    · have hlast {j : Nat} (hj : j < n + 1) (hjP : j < n → ¬ P j) : ¬ P j := by
        rcases Nat.lt_succ_iff_lt_or_eq.1 hj with hlt | rfl
        · exact hjP hlt
        · exact hn
      rcases ih with hnone | ⟨i, hi, hPi, hafter⟩
      · exact .inl fun j hj => hlast hj (hnone j)
      · exact .inr ⟨i, Nat.lt_succ_of_lt hi, hPi, fun j hij hj => hlast hj (hafter j hij)⟩

/-- The engines are what `State.rdoAt` reads, one by one. -/
theorem rdo_ext {s t : State} (hlen : s.rdo.length = t.rdo.length) (h : ∀ e, s.rdoAt e = t.rdoAt e) :
    s.rdo = t.rdo := by
  refine List.ext_getElem hlen fun e hs ht => ?_
  have hat := h e
  rwa [State.rdoAt, State.rdoAt, List.getD_eq_getElem _ _ hs, List.getD_eq_getElem _ _ ht] at hat

/-! ### Registered slots -/

/-- Entry `k` of the registered descriptors is slot `k` (10_state.md rule R31). -/
theorem State.TableInv.slotAt_of_getElem? {s : State} (hs : s.TableInv) {k : Nat} {d : Slot}
    (hd : s.registered[k]? = some d) : k < s.muxCount.toNat ∧ s.slotAt k = d := by
  obtain ⟨hlen, _⟩ := List.getElem?_eq_some_iff.1 hd
  have hk := hlen.trans_le s.registered_length_le
  exact ⟨hk, Option.some.inj ((hs.registered_getElem? hk).symm.trans hd)⟩

theorem passed_of_reads {s : State} {d : Slot} {hi lo : Byte} (hsize : d.size = 2#16)
    (h0 : Memory.read s.fb d.index.toNat = some hi) (h1 : Memory.read s.fb (d.index.toNat + 1) = some lo) :
    s.passed d = [hi, lo] :=
  passed_of_window (window_of_reads hsize h0 h1)

/-! ### Bound slots -/

theorem sendClients_of_bound {s : State} (h : sendBound s) :
    sendClients s.cfg s.registered = s.registered.filter fun d => decide (d.send ≠ 1#8) :=
  List.filter_congr fun d hd => decide_eq_decide.2 ⟨And.left, fun hne =>
    (h d hd).resolve_left fun hengine => hne hengine.1⟩

theorem recvClients_of_bound {s : State} (h : recvBound s) :
    recvClients s.cfg s.registered = s.registered.filter fun d => decide (d.recv ≠ 1#8) :=
  List.filter_congr fun d hd => decide_eq_decide.2 ⟨And.left, fun hne =>
    (h d hd).resolve_left fun hengine => hne hengine.1⟩

/-- A bound port-1 slot is ready. -/
theorem recvBound.ready {s : State} (h : recvBound s) {d : Slot} (hd : d ∈ s.registered) (hrecv : d.recv = 1#8) :
    engineReady s d := by
  rcases h d hd with ⟨_, hready⟩ | ⟨hne, _⟩
  · exact hready
  · exact absurd hrecv hne

/-! ### The table as the receive finds it -/

theorem TableEq.registered_eq {s t : State} (h : TableEq s t) : t.registered = s.registered := by
  obtain ⟨_, _, hcount, _, _, hslots⟩ := h
  rw [State.registered, hcount, hslots, State.registered]

/-- Receive handlers stay bound while the table stays and every engine stays valid. -/
theorem recvBound.congr {s t : State} (h : recvBound s) (htable : TableEq s t)
    (hvalid : ∀ e, (t.rdoAt e).valid = (s.rdoAt e).valid) : recvBound t := by
  have hregistered := htable.registered_eq
  obtain ⟨hcfg, _⟩ := htable
  simpa only [recvBound, engineReady, hregistered, hcfg, hvalid] using h

/-! ### What a send leaves -/

theorem Sent.rdoAt_valid {s u : State} {k : Nat} (h : Sent s k u) (e : Nat) :
    (u.rdoAt e).valid = (s.rdoAt e).valid := by
  rw [h.engines, advanced_iterate_valid]

/-- The last slot that sends an engine carries the offset the engine is left with (42_rdo_client.md rule R166). -/
theorem Sent.holdsOffset_last {s u : State} (h : Sent s s.muxCount.toNat u) (hs : s.TableInv) {i : Nat}
    (hi : i < s.muxCount.toNat) (hsend : (s.slotAt i).send = 1#8)
    (hlast : ∀ j, i < j → j < s.muxCount.toNat →
      ¬ ((s.slotAt j).send = 1#8 ∧ (s.slotAt j).inst.toNat = (s.slotAt i).inst.toNat)) :
    Memory.HoldsOffset u.fb (s.slotAt i).index.toNat (u.rdoAt (s.slotAt i).inst.toNat).offset := by
  obtain ⟨_, hholds⟩ := h.carried i hi hsend
  rw [h.engines, engineSends_eq_of_not_sent hs hi (Nat.le_refl _)
    fun j hij hj hjsend heq => hlast j hij hj ⟨hjsend, heq⟩]
  exact hholds

theorem Memory.HoldsOffset.unique {m : Memory} {a : Nat} {o o' : Half} (h : Memory.HoldsOffset m a o)
    (h' : Memory.HoldsOffset m a o') : o = o' := by
  obtain ⟨hi, lo, rfl, h0, h1⟩ := h
  obtain ⟨hi', lo', rfl, h0', h1'⟩ := h'
  rw [Option.some.inj (h0.symm.trans h0'), Option.some.inj (h1.symm.trans h1')]

/-- A send that completes has written every window (43_multiplexer.md rule R191, 42_rdo_client.md rule R166). -/
theorem SendDone.window_ne_none {s u : State} {bss : List (List Byte)} {rest : List ClientRsp}
    (h : SendDone s bss rest u) (hs : s.TableInv) (hbound : sendBound s) {d : Slot} (hd : d ∈ s.registered) :
    u.window d ≠ none := by
  by_cases hsend : d.send = 1#8
  · obtain ⟨i, hi, rfl⟩ := hs.exists_slotAt_of_mem hd
    obtain ⟨hsize, hiB, loB, _, hread0, hread1⟩ := h.sent.carried i hi hsend
    rw [window_of_reads hsize hread0 hread1]
    nofun
  · have hclient : d ∈ sendClients s.cfg s.registered := by
      rw [sendClients_of_bound hbound]
      exact List.mem_filter.2 ⟨hd, decide_eq_true hsend⟩
    have hmem : u.window d ∈ bss.map some := h.windows ▸ List.mem_map_of_mem hclient
    obtain ⟨bs, _, hbs⟩ := List.mem_map.1 hmem
    rw [← hbs]
    nofun

/-- After MUX_SEND, the host writes the frame's length to OPA (43_multiplexer.md rule R188). -/
def State.frameArrives (u : State) : State := u.sendEnd.setOpa (u.muxOffset.setWidth 32)

@[simp] theorem frameArrives_rdoAt (u : State) (e : Nat) : u.frameArrives.rdoAt e = u.rdoAt e := rfl
@[simp] theorem frameArrives_window (u : State) (d : Slot) : u.frameArrives.window d = u.window d := rfl

theorem DispatchFrame.frameArrives_tableEq {s u : State} (h : DispatchFrame s u) : TableEq s u.frameArrives := by
  rw [h]
  simp [TableEq, State.frameArrives, State.sendEnd]

/-- What the slots of `s` are passed after the send, the answers of the clients among it. -/
theorem SendDone.passed_eq {s u : State} {bss : List (List Byte)} {rest : List ClientRsp}
    (h : SendDone s bss rest u) : (sendClients s.cfg s.registered).map u.frameArrives.passed = bss := by
  have hpassed := congrArg (List.map (·.getD [])) h.windows
  rw [List.map_map, List.map_map] at hpassed
  exact hpassed.trans (List.map_id _)

/-! ### The receive of it -/

/-- MUX_RECV of the frame a send leaves completes, if its clients acknowledge (43_multiplexer.md rule R197). -/
theorem SendDone.receives {s u : State} {bss : List (List Byte)} {rest : List ClientRsp}
    (h : SendDone s bss (List.replicate (recvClients s.cfg s.registered).length .recvAck ++ rest) u)
    (hs : s.TableInv) (hstate : s.muxState ≠ .unconfigured) (hsendBound : sendBound s) (hrecvBound : recvBound s) :
    ∃ w, RecvDone u.frameArrives rest w ∧ exec .muxRecv u.frameArrives = .next w.recvEnd := by
  have htable := h.sent.frame.frameArrives_tableEq
  have hregistered := htable.registered_eq
  have ⟨hcfg, hstateEq, _⟩ := htable
  have hbound : recvBound u.frameArrives := hrecvBound.congr htable h.sent.rdoAt_valid
  have hlength : (u.muxOffset.setWidth 32).toNat = u.muxOffset.toNat := by
    rw [BitVec.toNat_setWidth, Nat.mod_eq_of_lt (by omega)]
  refine exec_muxRecv_completes (htable.tableInv hs) (by rwa [hstateEq]) hbound rfl hlength.ge (fun d hd => ?_) ?_
  · exact h.window_ne_none hs hsendBound (hregistered ▸ hd)
  · rw [hregistered, hcfg]
    exact h.clients

/-- Where every slot has the same port for both handlers, the receive leaves every engine as the send left it: the
last receiver of an engine is its last sender (43_multiplexer.md rule R197). -/
theorem Received.rdo_eq_of_sent {s u w : State} (hs : s.TableInv) (hsent : Sent s s.muxCount.toNat u)
    (hreceived : Received u.frameArrives s.muxCount.toNat w)
    (hsame : ∀ d ∈ s.registered, d.recv = d.send) (hlen : w.rdo.length = u.rdo.length) : w.rdo = u.rdo := by
  have hslot := hsent.frame.frameArrives_tableEq.slotAt
  obtain ⟨_, _, hkept, huntouched, hstored⟩ := hreceived
  simp only [hslot, frameArrives_rdoAt] at hkept huntouched hstored
  refine rdo_ext hlen fun e => ?_
  rcases none_or_exists_last (fun i => (s.slotAt i).recv = 1#8 ∧ (s.slotAt i).inst.toNat = e) s.muxCount.toNat
    with hnone | ⟨i, hi, ⟨hrecv, rfl⟩, hlast⟩
  · exact huntouched e fun i hi hrecv he => hnone i hi ⟨hrecv, he⟩
  · have hsend {j : Nat} (hj : j < s.muxCount.toNat) : (s.slotAt j).recv = (s.slotAt j).send :=
      hsame _ (hs.slotAt_mem hj)
    have hafter := hsent.holdsOffset_last hs hi (hsend hi ▸ hrecv) fun j hij hj hjs =>
      hlast j hij hj (hsend hj ▸ hjs)
    have hoffset := (hstored i hi hrecv fun j hij hj hjrecv hinst =>
      hlast j hij hj ⟨hjrecv, congrArg BitVec.toNat hinst⟩).unique hafter
    rw [hkept, hoffset]

end Sys2Proof.Machine

namespace Sys2Proof.Proofs
open Sys2Proof.Machine

/-- Settles O39: the receive completes on the frame the send leaves, and passes each slot its window
(`exec_muxRecv_completes`), which holds the client's answer (`SendDone.passed_eq`) or the engine's offset
(`muxSendWritesEngineOffsets`). -/
theorem frameRoundTrip : Obligations.FrameRoundTrip := by
  intro s t bss rest hs hstate hbusy hsendBound hrecvBound hfit hclients h
  obtain ⟨u, hdone, hexec⟩ := exec_muxSend_completes hs hstate hsendBound hfit hclients
  cases hexec.symm.trans h
  obtain ⟨w, hrecvDone, hrecv⟩ := hdone.receives hs hstate hsendBound hrecvBound
  have htable := hdone.sent.frame.frameArrives_tableEq
  have hslot := htable.slotAt
  have hregistered := htable.registered_eq
  have ⟨_, _, hcount, _⟩ := htable
  have hstatus : u.status = s.status := by rw [hdone.sent.frame]
  have hend := hrecvDone.recvEnd_eq rfl
  have hpassed {k : Nat} {d : Slot} {ps : List Byte} (hd : s.registered[k]? = some d)
      (hps : (s.registered.map u.frameArrives.passed)[k]? = some ps) : ps = u.frameArrives.passed d := by
    rw [List.getElem?_map, hd] at hps
    exact (Option.some.inj hps).symm
  refine ⟨w.recvEnd, s.registered.map u.frameArrives.passed, hrecv, ?state, rfl, ?fit, ?answers,
    fun k d ps hd hps => ⟨fun hengines hsend => ?carried, fun hrecv hlast => ?stored⟩, fun hsame => ?same⟩
  case state =>
    rw [filter_zip_map s.registered u.frameArrives.passed fun d => decide (d.recv ≠ 1#8), List.map_map, ← hstatus]
    rwa [recvClients_of_bound (hrecvBound.congr htable hdone.sent.rdoAt_valid), hregistered] at hend
  case fit =>
    rw [answersFit, List.map_map]
    exact List.map_congr_left fun d hd => (passed_spec (hdone.window_ne_none hs hsendBound hd)).1
  case answers =>
    rw [filter_zip_map s.registered u.frameArrives.passed fun d => decide (d.send ≠ 1#8), List.map_map,
      ← sendClients_of_bound hsendBound]
    exact hdone.passed_eq
  case carried =>
    obtain ⟨hk, rfl⟩ := hs.slotAt_of_getElem? hd
    obtain ⟨_, hcarried, _⟩ := muxSendWritesEngineOffsets s _ bss _ hs hengines hstate hsendBound hfit hclients h
    obtain ⟨hiB, loB, hoffset, hread0, hread1⟩ := hcarried k hk hsend
    obtain ⟨hsize, _⟩ := hdone.sent.carried k hk hsend
    exact ⟨hiB, loB, (hpassed hd hps).trans (passed_of_reads hsize hread0 hread1), hoffset⟩
  case stored =>
    obtain ⟨hk, rfl⟩ := hs.slotAt_of_getElem? hd
    have hstored := hrecvDone.received.stored k (hcount ▸ hk)
    simp only [hslot] at hstored
    obtain ⟨hiB, loB, hoffset, hread0, hread1⟩ := hstored hrecv fun j hkj hj =>
      hlast j _ hkj (hs.registered_getElem? (hcount ▸ hj))
    obtain ⟨_, _, hsize⟩ := hrecvBound.ready (List.mem_of_getElem? hd) hrecv
    exact ⟨hiB, loB, (hpassed hd hps).trans (passed_of_reads hsize hread0 hread1), hoffset.symm⟩
  case same =>
    exact Received.rdo_eq_of_sent (u := u) (w := w) hs hdone.sent (hcount ▸ hrecvDone.received) hsame
      hrecvDone.rdo_length

end Sys2Proof.Proofs
end

section
/-! PROOFS. How a command ends, and what keeps it from ending (60_exceptions.md rules R210, R211, R214, R222). -/

namespace Sys2Proof.Machine

/-! ### Endings -/

/-- The three ways a command accepted with STATUS `st` can leave the block (60_exceptions.md rule R210). -/
inductive CommandEnd (st : Status) (t : State) : Prop where
  | completed (hb : t.busy = none) (o : StatusOutcome) (d : Bool) (h : t.status = st.complete o d)
  | faulted (hb : t.busy = none) (c : FaultCode) (h : t.status = st.commandFault c)
  | waiting (hb : t.busy ≠ none) (h : t.status = st)

/-- However its run went, a MUX_SEND or MUX_RECV ends in one of the three ways. -/
theorem commandEnd_of_next {w : Walk} {t : State} (h : endSend w = .next t ∨ endRecv w = .next t) :
    CommandEnd w.state.status t := by
  cases w with
  | done u => rcases h with h | h <;> cases h <;> exact .completed rfl .ok false rfl
  | stop c u => rcases h with h | h <;> cases h <;> exact .faulted rfl c rfl
  | wait q u => rcases h with h | h <;> cases h <;> exact .waiting (Option.some_ne_none q) rfl

/-- No dispatch writes STATUS: the command does, at its end (60_exceptions.md rules R211, R214). -/
theorem DispatchFrame.status {s t : State} (h : DispatchFrame s t) : t.status = s.status := by
  rw [h]

/-- Every command has a next state: none stops the model or is refused. -/
theorem exec_total (i : Instr) (s : State) : ∃ t, exec i s = .next t := by
  by_cases hsend : i = .muxSend
  · subst hsend
    rcases execMuxSend_cases s with hx | ⟨_, hx⟩
    · exact ⟨_, hx⟩
    · rcases endSend_cases (walkSlots sendDispatch s.muxCount.toNat 0 s) with
        ⟨_, _, hend⟩ | ⟨_, _, _, hend⟩ | ⟨_, _, _, hend⟩ <;> exact ⟨_, hx.trans hend⟩
  by_cases hrecv : i = .muxRecv
  · subst hrecv
    rcases execMuxRecv_cases s with ⟨_, hx⟩ | ⟨_, _, _, _, hx⟩
    · exact ⟨_, hx⟩
    · rcases endRecv_cases (walkSlots recvDispatch s.muxCount.toNat 0 s) with
        ⟨_, _, hend⟩ | ⟨_, _, _, hend⟩ | ⟨_, _, _, hend⟩ <;> exact ⟨_, hx.trans hend⟩
  rcases exec_raisesOr s hsend hrecv with ⟨_, hx⟩ | ⟨_, _, _, _, hx⟩ <;> exact ⟨_, hx⟩

/-- A command that starts with none in progress ends in one of the three ways. -/
theorem exec_commandEnd {i : Instr} {s t : State} (hb : s.busy = none) (h : exec i s = .next t) :
    CommandEnd s.status t := by
  rcases exec_next h with ⟨c, rfl⟩ | ⟨o, d, u, heffect, rfl⟩ | ⟨_, hend⟩ | ⟨_, hend⟩
  · exact .faulted hb c rfl
  · exact .completed (heffect.busy.trans hb) o d (by rw [setStatus_status, heffect.status])
  · rw [← (walkSlots_frame sendDispatch_frame s.muxCount.toNat 0 s).status]
    exact commandEnd_of_next (.inl hend)
  · rw [← (walkSlots_frame recvDispatch_frame s.muxCount.toNat 0 s).status]
    exact commandEnd_of_next (.inr hend)

/-- A write to CMD that is not ignored ends in one of the three ways (rules R84, R87 for a word that spells no
command). -/
theorem writeCmd_commandEnd {s : State} (w : Word) (hb : s.busy = none) (hf : s.status.fault = false) :
    ∃ t, writeCmd w s = .next t ∧ CommandEnd s.status t := by
  rcases writeCmd_cases w s with ⟨hfault, _⟩ | ⟨_, _, hx⟩ | ⟨_, i, _, hx⟩
  · cases hf.symm.trans hfault
  · exact ⟨_, hx, .faulted hb .illegalCommand rfl⟩
  · obtain ⟨t, ht⟩ := exec_total i s
    exact ⟨t, hx.trans ht, exec_commandEnd hb ht⟩

/-- A faulted block ignores a write to CMD (60_exceptions.md rule R215). -/
theorem writeCmd_of_fault {s : State} (w : Word) (hf : s.status.fault = true) : writeCmd w s = .next s :=
  if_pos hf

/-! ### Silent clients -/

/-- The client `q` waits for has given no answer that fits: none, or one of the wrong kind or length (log 6). -/
def Wait.Silent (q : Wait) (s : State) : Prop :=
  match q with
  | .sendRsp i => ∀ bs rest, s.clients = .sendRsp bs :: rest → bs.length ≠ (s.slotAt i).size.toNat
  | .recvAck _ => ∀ rest, s.clients ≠ .recvAck :: rest

theorem takeSendRsp_of_silent {i : Nat} {s : State} (h : (Wait.sendRsp i).Silent s) :
    takeSendRsp i s = .wait (.sendRsp i) s := by
  rcases takeSendRsp_cases i s with ⟨bs, rest, hclients, hlen, _⟩ | hwait
  · exact absurd hlen (h bs rest hclients)
  · exact hwait

theorem takeRecvAck_of_silent {i : Nat} {s : State} (h : (Wait.recvAck i).Silent s) :
    takeRecvAck i s = .wait (.recvAck i) s := by
  rcases takeRecvAck_cases i s with ⟨rest, hclients, _⟩ | hwait
  · exact absurd hclients (h rest)
  · exact hwait

/-- A command that waits for a silent client goes on to the same state (60_exceptions.md rule R222). -/
theorem resume_of_silent {q : Wait} {s : State} (hb : s.busy = some q) (h : q.Silent s) :
    resume q s = .next s := by
  have hsame : s.setBusy (some q) = s := by rw [← hb]; rfl
  cases q with
  | sendRsp i =>
    calc resumeSend i s = .next (s.setBusy (some (.sendRsp i))) := by
          rw [resumeSend_eq, takeSendRsp_of_silent h]; rfl
      _ = .next s := by rw [hsame]
  | recvAck i =>
    calc resumeRecv i s = .next (s.setBusy (some (.recvAck i))) := by
          rw [resumeRecv_eq, takeRecvAck_of_silent h]; rfl
      _ = .next s := by rw [hsame]

/-- A send dispatch waits only for a client that is silent. -/
theorem sendDispatch_wait_silent {i : Nat} {s t : State} {q : Wait} (h : sendDispatch i s = .wait q t) :
    q.Silent t := by
  rcases sendDispatch_cases i s with ⟨_, hx⟩ | ⟨_, _, hx⟩ | ⟨hne, hext, ⟨_, _, _, _, hx⟩ | hx⟩ <;>
    cases hx.symm.trans h
  intro bs rest hclients hlen
  cases (sendDispatch_of_client hne hext hclients hlen).symm.trans h

/-- A receive dispatch waits only for a client that is silent. -/
theorem recvDispatch_wait_silent {i : Nat} {s t : State} {q : Wait} (h : recvDispatch i s = .wait q t) :
    q.Silent t := by
  rcases recvDispatch_cases i s with ⟨_, hx⟩ | ⟨_, _, _, _, _, _, hx⟩ |
      ⟨hne, hext, bs, hread, ⟨_, _, hx⟩ | hx⟩ <;>
    cases hx.symm.trans h
  have hwritten : s.window (s.slotAt i) = some bs := hread
  intro rest hclients
  cases (recvDispatch_of_client hne hext (hwritten ▸ Option.some_ne_none bs) hclients).symm.trans h

/-- If every dispatch that waits does so for a silent client, so does every run. -/
theorem walkSlots_wait_silent {dispatch : Nat → State → Walk}
    (hd : ∀ {i s q t}, dispatch i s = .wait q t → q.Silent t) {n i : Nat} {s t : State} {q : Wait}
    (h : walkSlots dispatch n i s = .wait q t) : q.Silent t := by
  induction n generalizing i s with
  | zero => cases h
  | succ n ih =>
    rw [walkSlots_succ] at h
    cases hi : dispatch i s with
    | done u => rw [hi] at h; exact ih h
    | stop c u => rw [hi] at h; cases h
    | wait p u => rw [hi] at h; exact hd (hi.trans h)

/-- A client's silence is no matter of `busy`. -/
theorem Wait.Silent.setBusy {q : Wait} {s : State} (h : q.Silent s) (b : Option Wait) :
    q.Silent (s.setBusy b) := by
  cases q <;> exact h

/-- A command that waits is MUX_SEND or MUX_RECV at a registered slot, and the client there is silent
(43_multiplexer.md rule R193). -/
theorem exec_wait {i : Instr} {s t : State} {q : Wait} (hb : s.busy = none) (h : exec i s = .next t)
    (hq : t.busy = some q) :
    q.Silent t ∧ ∃ k, k < s.muxCount.toNat ∧
      ((i = .muxSend ∧ q = .sendRsp k) ∨ (i = .muxRecv ∧ q = .recvAck k)) := by
  have hne : t.busy ≠ none := hq ▸ Option.some_ne_none q
  rcases exec_next h with ⟨c, rfl⟩ | ⟨o, d, u, heffect, rfl⟩ | ⟨rfl, hend⟩ | ⟨rfl, hend⟩
  · exact absurd hb hne
  · exact absurd (heffect.busy.trans hb) hne
  · obtain ⟨p, u, hwalk, rfl⟩ := endSend_busy hend hne
    cases hq
    have hsilent := (walkSlots_wait_silent sendDispatch_wait_silent hwalk).setBusy (some q)
    obtain ⟨k, _, hk, rfl⟩ := walkSlots_wait sendDispatch_waitsFor _ _ _ _ _ hwalk
    exact ⟨hsilent, k, Nat.zero_add s.muxCount.toNat ▸ hk, .inl ⟨rfl, rfl⟩⟩
  · obtain ⟨p, u, hwalk, rfl⟩ := endRecv_busy hend hne
    cases hq
    have hsilent := (walkSlots_wait_silent recvDispatch_wait_silent hwalk).setBusy (some q)
    obtain ⟨k, _, hk, rfl⟩ := walkSlots_wait recvDispatch_waitsFor _ _ _ _ _ hwalk
    exact ⟨hsilent, k, Nat.zero_add s.muxCount.toNat ▸ hk, .inr ⟨rfl, rfl⟩⟩

end Sys2Proof.Machine

namespace Sys2Proof.Proofs
open Sys2Proof.Machine

/-- Settles O6: the step is the write to CMD, which a faulted block ignores and which otherwise ends as
`CommandEnd` says. -/
theorem commandEndsInOneOfThreeWays : Obligations.CommandEndsInOneOfThreeWays := by
  intro s w rest hb hbus
  rw [step_writeCmd hb hbus]
  refine ⟨fun hf => writeCmd_of_fault (s := s.takeEvent rest) w hf, fun hf => ?_⟩
  obtain ⟨t, hstep, hend⟩ := writeCmd_commandEnd (s := s.takeEvent rest) w hb hf
  refine ⟨t, hstep, ?_⟩
  cases hend with
  | completed hbusy o d h => exact .inl ⟨hbusy, o.byte, d, outcome_byte_le o, h⟩
  | faulted hbusy c h => exact .inr (.inl ⟨hbusy, c, h.trans (commandFault_eq s.status c)⟩)
  | waiting hbusy h => exact .inr (.inr ⟨hbusy, h⟩)

/-- Settles O43: a dispatch waits only for a silent client (`exec_wait`), and a command that waits for one goes on
to the same state (`resume_of_silent`). -/
theorem stuckOnlyOnSilentClient : Obligations.StuckOnlyOnSilentClient := by
  refine ⟨fun i s t k hb h => ⟨fun hq => ?send, fun hq => ?recv⟩, fun s k hr => ⟨fun hq hsilent => ?stuckSend,
    fun hq hsilent => ?stuckRecv⟩⟩
  case send =>
    obtain ⟨hsilent, _, hk, ⟨rfl, hw⟩ | ⟨_, hw⟩⟩ := exec_wait hb h hq <;> cases hw
    exact ⟨rfl, hk, hsilent⟩
  case recv =>
    obtain ⟨hsilent, _, hk, ⟨_, hw⟩ | ⟨rfl, hw⟩⟩ := exec_wait hb h hq <;> cases hw
    exact ⟨rfl, hk, hsilent⟩
  case stuckSend => exact (step_of_busy hq hr).trans (resume_of_silent hq hsilent)
  case stuckRecv => exact (step_of_busy hq hr).trans (resume_of_silent hq hsilent)

end Sys2Proof.Proofs
end

section
/-! PROOFS. Reset, and what nothing else takes back (70_reset_and_hazards.md rule R240, 60_exceptions.md rule R215,
10_state.md rule R33): the fault record once FAULT is set, and a table once it is created. -/

namespace Sys2Proof.Machine

/-! ### A step that is a reset -/

/-- A reset is taken at once, also while a command waits (log 9). -/
theorem step_of_reset {s : State} {rest : List Event} (hbus : s.bus = .reset :: rest) :
    step s = .next (s.takeEvent rest).platformReset := by
  simp only [step, blockStep, hbus, takeStep]

/-! ### A step that is not -/

/-- The first fault stays on record, whatever becomes of STATUS (60_exceptions.md rule R214). -/
theorem StatusChange.keeps_fault {st st' : Status} (h : StatusChange st st') (hf : st.fault = true) :
    st'.fault = true ∧ st'.fcode = st.fcode := by
  cases h with
  | same => exact ⟨hf, rfl⟩
  | completed o d _ => exact ⟨hf, rfl⟩
  | raised c => exact ⟨commandFault_fault st c, by rw [commandFault_fcode, if_pos hf]⟩
  | recorded c => exact ⟨record_fault st c, by rw [record_fcode, if_pos hf]⟩

/-- Without a reset, a step changes STATUS in one of the ways of `StatusChange` only. -/
theorem step_statusChange_of_no_reset {s t : State} (h : step s = .next t)
    (hreset : ∀ rest, s.bus ≠ .reset :: rest) : StatusChange s.status t.status := by
  rcases step_next h with ⟨rest, hbus, _⟩ | ⟨_, ⟨q, hb, hresume⟩ | ⟨_, ⟨_, rfl⟩ | ⟨_, rest, _, hev⟩⟩⟩
  · exact absurd hbus (hreset rest)
  · obtain ⟨w, hrun, hend⟩ := resume_next_run hb hresume
    exact hend.statusChange hrun
  · exact .same
  rcases hev with rfl | ⟨v, rfl⟩ | ⟨c, v, rfl⟩ | ⟨c, rfl⟩ | ⟨v, rfl⟩ | ⟨v, rfl⟩ | ⟨a, b, _, rfl⟩ |
    ⟨_, c, rfl⟩ | ⟨_, i, hexec⟩
  · exact .same
  · exact .same
  · exact .recorded c
  · exact .recorded c
  · exact .same
  · exact .same
  · exact .same
  · exact .raised c
  · exact exec_statusChange (s := s.takeEvent rest) hexec

/-- Without a reset, a table that was created stays (10_state.md rule R33): MUX_INIT and MUX_ADD leave
MUX_STATE at CONFIGURED and BUILT. -/
theorem step_keeps_table_created {s t : State} (h : step s = .next t)
    (hreset : ∀ rest, s.bus ≠ .reset :: rest) (hs : s.muxState ≠ .unconfigured) :
    t.muxState ≠ .unconfigured := by
  rcases step_table h with ⟨rest, hbus, _⟩ |
    ⟨_, ⟨_, hsame, _⟩ | ⟨_, _, hunconfigured, _⟩ | ⟨_, _, _, _, _, _, hbuilt, _⟩⟩
  · exact absurd hbus (hreset rest)
  · exact hsame ▸ hs
  · exact absurd hunconfigured hs
  · simp [hbuilt]

end Sys2Proof.Machine

namespace Sys2Proof.Proofs
open Sys2Proof.Machine

/-- Settles O52: the reset step is `State.platformReset`; every other step changes STATUS as `StatusChange` says,
which never clears a fault record, and the table as `step_table` says, which never undoes one. -/
theorem resetIsTheOnlyWayBack : Obligations.ResetIsTheOnlyWayBack := by
  refine ⟨fun s rest hbus => step_of_reset hbus, fun s t hstep hreset => ⟨?fault, ?table⟩⟩
  case fault => exact (step_statusChange_of_no_reset hstep hreset).keeps_fault
  case table => exact step_keeps_table_created hstep hreset

end Sys2Proof.Proofs
end
